-- ==== Sys2Proof/Word.lean ====
section
/-! DEFINITION. The word types of 00_scope.md R8, R12 and R20: unsigned integers of 8, 32 and 64 bits, with
addition modulo 2^n. Nothing in this hardware is signed (R20, R21). -/

namespace Sys2Proof

/-- `u8` (00_scope.md R20). -/
abbrev Byte := BitVec 8

/-- `u32` (00_scope.md R20): a register of the window, a word of H, V or M, a command word. -/
abbrev Word := BitVec 32

/-- `u64` (00_scope.md R12, R20): the byte counter CTR and the counter input of F. -/
abbrev Counter := BitVec 64

end Sys2Proof
end

