-- ==== Sys2Proof/Syntax.lean ====
section
/-! DEFINITION. The six commands of 30_encoding.md R95 (00_scope.md R29: "exactly the six commands"), one constructor per row
of spec/opcode_table.json, with the free fields of R96 as operands. Array operands are not in the command word (R98). -/

namespace Sys2Proof

/-- A decoded command. The operand fields have the widths of 30_encoding.md R92 to R94 and are unsigned (R97). -/
inductive Instr where
  /-- INIT outlen, keylen (format I, 41_streaming_state_manager.md R155). -/
  | init (outlen keylen : BitVec 6)
  /-- UPDATE nbytes (format U, 41_streaming_state_manager.md R160). -/
  | update (nbytes : BitVec 7)
  /-- FINAL (format N, 41_streaming_state_manager.md R168). -/
  | final
  /-- FINAL_RESET (format N, 41_streaming_state_manager.md R174). -/
  | finalReset
  /-- RESET (format N, 41_streaming_state_manager.md R178). -/
  | reset
  /-- COMPRESS last (format C, 40_compression_engine.md R133). -/
  | compress (last : Bool)
  deriving DecidableEq, Repr

end Sys2Proof
end

