-- ==== Sys2Proof/WellFormed.lean ====
section
/-! DEFINITION. Which terms of `Instr` are commands of the hardware (30_encoding.md R92 to R94, R101). -/

namespace Sys2Proof

/-- A term is a command. The one bound the field widths do not give is NBYTES ≤ 64: an UPDATE word with NBYTES in
65..127 "decodes as no command" (30_encoding.md R101). An INIT with an OUTLEN or KEYLEN out of range IS a command, which
then raises the construction error (30_encoding.md R105). -/
def Instr.wellFormed : Instr → Bool
  | .init _ _ => true
  | .update nbytes => decide (nbytes.toNat ≤ 64)
  | .final => true
  | .finalReset => true
  | .reset => true
  | .compress _ => true

end Sys2Proof
end

