-- ==== Sys2Proof/Decode.lean ====
section
/-! DEFINITION. The decode function of 30_encoding.md R100, total on every 32-bit word and rejecting by name; the match and
mask rows of R96; the encoder of R107; and the host's `decodeTableWord`. -/

namespace Sys2Proof

/-- Why a command word is Invalid (30_encoding.md R104). Every reason has the one effect ERR = InvalidCommand. -/
inductive Invalid where
  /-- OP is 0x0 or 0x7..0xF. -/
  | reservedOpcode
  /-- A reserved bit of the opcode's format is set. -/
  | reservedBits
  /-- UPDATE with NBYTES in 65..127 (30_encoding.md R101). -/
  | nbytesOutOfRange
  deriving DecidableEq, Repr

/-- OP, bits 3:0 (30_encoding.md R90). -/
def opField (w : Word) : BitVec 4 := w.extractLsb' 0 4

/-- OUTLEN = w[13:8] (30_encoding.md R97). -/
def outlenField (w : Word) : BitVec 6 := w.extractLsb' 8 6

/-- KEYLEN = w[21:16] (30_encoding.md R97). -/
def keylenField (w : Word) : BitVec 6 := w.extractLsb' 16 6

/-- NBYTES = w[14:8] (30_encoding.md R97). -/
def nbytesField (w : Word) : BitVec 7 := w.extractLsb' 8 7

/-- LAST = w[8] (30_encoding.md R97). -/
def lastField (w : Word) : Bool := w.getLsbD 8

/-- A word whose reserved bits, the bits of `mask`, must all be 0. -/
def ifReservedZero (w mask : Word) (i : Instr) : Except Invalid Instr :=
  if w &&& mask = 0 then .ok i else .error .reservedBits

/-- The decode function (30_encoding.md R100): the reserved bits first, then NBYTES. -/
def decode (w : Word) : Except Invalid Instr :=
  if opField w = 0x1 then ifReservedZero w 0xFFC0C0F0 (.init (outlenField w) (keylenField w))
  else if opField w = 0x2 then
    if w &&& 0xFFFF80F0 ≠ 0 then .error .reservedBits
    else if 64 < (nbytesField w).toNat then .error .nbytesOutOfRange
    else .ok (.update (nbytesField w))
  else if opField w = 0x3 then ifReservedZero w 0xFFFFFFF0 .final
  else if opField w = 0x4 then ifReservedZero w 0xFFFFFFF0 .finalReset
  else if opField w = 0x5 then ifReservedZero w 0xFFFFFFF0 .reset
  else if opField w = 0x6 then ifReservedZero w 0xFFFFFEF0 (.compress (lastField w))
  else .error .reservedOpcode

/-- One row of the match and mask table. -/
structure MatchRow where
  pattern : Word
  mask : Word
  deriving DecidableEq, Repr

/-- A word selects a row when `(w & mask) = match` (30_encoding.md R96). -/
def MatchRow.selects (r : MatchRow) (w : Word) : Bool := w &&& r.mask == r.pattern

/-- The row of a command in the match and mask table (30_encoding.md R96). -/
def Instr.matchRow : Instr → MatchRow
  | .init _ _ => ⟨0x00000001, 0xFFC0C0FF⟩
  | .update _ => ⟨0x00000002, 0xFFFF80FF⟩
  | .final => ⟨0x00000003, 0xFFFFFFFF⟩
  | .finalReset => ⟨0x00000004, 0xFFFFFFFF⟩
  | .reset => ⟨0x00000005, 0xFFFFFFFF⟩
  | .compress _ => ⟨0x00000006, 0xFFFFFEFF⟩

/-- The whole table, in opcode order (30_encoding.md R96). -/
def matchTable : List MatchRow :=
  [Instr.matchRow (.init 0 0), Instr.matchRow (.update 0), Instr.matchRow .final, Instr.matchRow .finalReset,
    Instr.matchRow .reset, Instr.matchRow (.compress false)]

/-- OP of a command (30_encoding.md R95). -/
def Instr.opcode : Instr → BitVec 4
  | .init _ _ => 0x1
  | .update _ => 0x2
  | .final => 0x3
  | .finalReset => 0x4
  | .reset => 0x5
  | .compress _ => 0x6

/-- The command word an assembler spells (30_encoding.md R107), laid out by the formats of R91 to R94. -/
def encode : Instr → Word
  | .init outlen keylen => 0x00000001 ||| keylen.setWidth 32 <<< 16 ||| outlen.setWidth 32 <<< 8
  | .update nbytes => 0x00000002 ||| nbytes.setWidth 32 <<< 8
  | .final => 0x00000003
  | .finalReset => 0x00000004
  | .reset => 0x00000005
  | .compress last => 0x00000006 ||| (BitVec.ofBool last).setWidth 32 <<< 8

/-- The command word of a table row's bits: one 32-bit word (30_encoding.md R90, R106), the bits above `nbits` zero. -/
def tableWord (nbits w : Nat) : Word := BitVec.ofNat 32 (w % 2 ^ nbits)

/-- What the decoder reads from a row of spec/opcode_table.json whose bits are `w`. -/
def decodeTableWord (nbits w : Nat) : Option Instr :=
  match decode (tableWord nbits w) with
  | .ok i => some i
  | .error _ => none

end Sys2Proof
end

