-- ==== Sys2Proof/Config.lean ====
section
/-! DEFINITION. What the spec leaves OPEN: the parameters BASE (00_scope.md R14) and LATENCY (R16). Both are constants
without a body, so nothing can be proved of their values. BACKEND (R17) is no argument of a model. -/

namespace Sys2Proof

/-- OPEN (00_scope.md R14): which 256-byte page the platform chose for the window. -/
opaque Config.baseIndex : Nat

/-- BASE, 256-byte aligned by construction (00_scope.md R14, log entry 13). -/
def Config.base : Nat := 256 * Config.baseIndex

/-- OPEN, the free value LATENCY (00_scope.md R16, 60_exceptions.md R237, log entry 2): how many inputs of the outside
world are served between the acceptance and the completion of the `n`-th accepted command. It is a natural number, so
every accepted command completes after finitely many of them, and nothing bounds it. -/
opaque Config.latency : Nat → Nat

end Sys2Proof
end

