-- ==== Sys2Proof/Machine/State.lean ====
section
/-! DEFINITION. The state of one block (10_state.md R30) and of the outside world that drives it (00_scope.md R18), the
reasons a step can stop, and the state right after hardware reset (10_state.md R62). -/

namespace Sys2Proof.Machine

/-- The error codes of 60_exceptions.md R220. Codes 7 to 15 are "reserved; never written" and have no constructor. -/
inductive ErrCode where
  | success
  | invalidOutputLength
  | invalidKeyLength
  | useAfterFinalize
  | noContext
  | invalidCommand
  | counterOverflow
  deriving DecidableEq, Repr

/-- The width of a Host access (20_memory.md R72): only a 32-bit access is admitted. -/
inductive Width where
  | byte
  | half
  | word
  deriving DecidableEq, Repr

/-- One input of the outside world: what the bus port carries per access (20_memory.md R71), the Host's POLL (30_encoding.md
R108), the Host's conditional stop (R111) and the hardware reset input (70_reset_and_hazards.md R250). -/
inductive HostOp where
  /-- A read at a byte offset of the window. -/
  | read (width : Width) (off : BitVec 8)
  /-- A write of a value at a byte offset of the window. -/
  | write (width : Width) (off : BitVec 8) (value : Word)
  /-- POLL: repeat `RD 0x04` until bit 0 (BUSY) reads 0 (30_encoding.md R108). -/
  | poll
  /-- `RD 0x04`; if the ERR it reads is not 0, the Host leaves out its next `n` inputs (30_encoding.md R111: "the expansion
  stops there and reports the error"). -/
  | skipIfErr (n : Nat)
  /-- The hardware reset input becomes asserted. -/
  | assertReset
  /-- The hardware reset input becomes deasserted. -/
  | releaseReset
  deriving DecidableEq, Repr

/-- One instance of the block and the inputs still to be made to it. -/
structure State where
  /-- H[0..7], the chaining state (10_state.md R33). -/
  h : Vector Word 8
  /-- BUF[0..63], the pending block buffer (10_state.md R34). -/
  buf : Vector Byte 64
  /-- CTR, the byte counter; 2^64 − 1 is the poison sentinel (10_state.md R35). -/
  ctr : Counter
  /-- OUTLEN (10_state.md R36). -/
  outlen : BitVec 6
  /-- KEYLEN (10_state.md R37). -/
  keylen : BitVec 6
  /-- SKEY[0..31], the saved key (10_state.md R38). -/
  skey : Vector Byte 32
  /-- CTX: a context exists (10_state.md R39). -/
  ctx : Bool
  /-- DOUT[0..31], the output buffer (10_state.md R41). -/
  dout : Vector Byte 32
  /-- DLEN (10_state.md R42). -/
  dlen : BitVec 6
  /-- BUSY (10_state.md R43). -/
  busy : Bool
  /-- ERR (10_state.md R44). -/
  err : ErrCode
  /-- OVR, sticky (10_state.md R45). -/
  ovr : Bool
  /-- PEND, the accepted command word (10_state.md R32). -/
  pend : Word
  /-- DIN0..DIN15 (10_state.md R46). -/
  din : Vector Word 16
  /-- KIN0..KIN7 (10_state.md R47). -/
  kin : Vector Word 8
  /-- CTRIN_LO (10_state.md R48). -/
  ctrinLo : Word
  /-- CTRIN_HI (10_state.md R48). -/
  ctrinHi : Word
  /-- The hardware reset input stands asserted (20_memory.md R71, 70_reset_and_hazards.md R250). -/
  resetIn : Bool
  /-- The model's own: the inputs still to be made, oldest first (log entry 1). -/
  host : List HostOp
  /-- The model's own: the values the Host's reads returned, oldest first (log entry 1). -/
  replies : List Word
  /-- The model's own: how many more inputs are served before the running command completes (log entry 2). -/
  wait : Nat
  /-- The model's own: latencies placed from outside for the next accepted commands (log entry 2). -/
  latencies : List Nat
  /-- The model's own: the counter `Config.latency` is applied to (log entry 2). -/
  accepted : Nat
  deriving DecidableEq, Repr

/-- Nothing stops this hardware: an error is a completion status (60_exceptions.md R226, R231), so the type is empty. It is
closed, nobody raises it, and that no step faults is what the spec says (safe). -/
inductive Fault where
  deriving DecidableEq, Repr

/-- Why a step has no meaning. -/
inductive Refusal where
  /-- An instruction without a meaning. Only an arm of `exec` may raise it, and none does (safe). -/
  | notModelled (mnemonic : String)
  /-- Raised by the Host's turn for an access that is not an aligned 32-bit access: "a model refuses it (no step; the Host
  agent is stuck)" (20_memory.md R72). Safe: the run stops. -/
  | unadmittedAccess (width : Width) (off : BitVec 8)
  deriving DecidableEq, Repr

/-- What a step or a command's meaning answers. -/
abbrev Result := Host.Outcome State Fault Refusal

/-- The state after hardware reset (10_state.md R62, 70_reset_and_hazards.md R250), the reset input deasserted (log entry 11),
with nothing placed for the outside world to do (log entries 3 and 4). -/
def State.reset : State where
  h := Vector.replicate 8 0
  buf := Vector.replicate 64 0
  ctr := 0
  outlen := 0
  keylen := 0
  skey := Vector.replicate 32 0
  ctx := false
  dout := Vector.replicate 32 0
  dlen := 0
  busy := false
  err := .success
  ovr := false
  pend := 0
  din := Vector.replicate 16 0
  kin := Vector.replicate 8 0
  ctrinLo := 0
  ctrinHi := 0
  resetIn := false
  host := []
  replies := []
  wait := 0
  latencies := []
  accepted := 0

end Sys2Proof.Machine
end

