-- ==== Sys2Proof/Machine/Flags.lean ====
section
/-! DEFINITION. The flags a Host observes and the read values made of them: FIN (10_state.md R40), STATUS (R53), CFG (R55),
the numbers of the error codes (60_exceptions.md R220), the occupancy of BUF (41_streaming_state_manager.md R150) and the
counter check of UPDATE (60_exceptions.md R225). -/

namespace Sys2Proof.Machine

/-- 2^64 − 1, the poison sentinel (00_scope.md R12). -/
def sentinel : Counter := BitVec.allOnes 64

/-- FIN = CTX ∧ (CTR = 2^64 − 1), not stored (10_state.md R40). -/
def State.fin (s : State) : Bool := s.ctx && s.ctr == sentinel

/-- The number of an error code (60_exceptions.md R220). -/
def ErrCode.code : ErrCode → BitVec 4
  | .success => 0
  | .invalidOutputLength => 1
  | .invalidKeyLength => 2
  | .useAfterFinalize => 3
  | .noContext => 4
  | .invalidCommand => 5
  | .counterOverflow => 6

/-- The read value of STATUS, `{18'b0, DLEN, ERR, OVR, FIN, CTX, BUSY}` (10_state.md R53). -/
def State.statusWord (s : State) : Word :=
  0#18 ++ s.dlen ++ s.err.code ++ BitVec.ofBool s.ovr ++ BitVec.ofBool s.fin ++ BitVec.ofBool s.ctx
    ++ BitVec.ofBool s.busy

/-- The read value of CFG: OUTLEN in bits 5:0, KEYLEN in bits 13:8, and 0 without a context (10_state.md R55). -/
def State.cfgWord (s : State) : Word :=
  if s.ctx then 0#18 ++ s.keylen ++ 0#2 ++ s.outlen else 0

/-- Occ(c), the number of leading bytes of BUF that hold unconsumed input (41_streaming_state_manager.md R150). -/
def occ (c : Counter) : Nat := if c = 0 then 0 else (c.toNat - 1) % 64 + 1

/-- CTR + n ≥ 2^64 − 1, "sum computed without wrap" (41_streaming_state_manager.md R160, 60_exceptions.md R225). -/
def counterOverflows (c : Counter) (n : Nat) : Bool := decide (2 ^ 64 - 1 ≤ c.toNat + n)

end Sys2Proof.Machine
end

