-- ==== Sys2Proof/Machine/Operands.lean ====
section
/-! DEFINITION. Byte order and the operands a command takes from the staging registers: LE32 and SER (00_scope.md R22), the
lanes of 20_memory.md R74, the byte views DINB and KINB and the counter CTRIN (10_state.md R46 to R48, 30_encoding.md R98). -/

namespace Sys2Proof.Machine

/-- Byte `j` of a word, bits [8j+7:8j] (20_memory.md R74 c). -/
def byteOf (w : Word) (j : Nat) : Byte := w.extractLsb' (8 * j) 8

/-- The word whose byte 0 is `b0`: `{b3, b2, b1, b0}` (20_memory.md R74). -/
def wordOfBytes (b0 b1 b2 b3 : Byte) : Word := b3 ++ b2 ++ b1 ++ b0

/-- LE32(block, i), the little-endian load of word `i` of a block (00_scope.md R22). -/
def le32 (block : Vector Byte 64) (i : Fin 16) : Word :=
  wordOfBytes block[4 * i.val] block[4 * i.val + 1] block[4 * i.val + 2] block[4 * i.val + 3]

/-- SER of eight words: byte 4i + j is bits [8j+7:8j] of word i (00_scope.md R22, 43_output_truncator.md R205). -/
def ser8 (ws : Vector Word 8) : Vector Byte 32 :=
  Vector.ofFn fun k : Fin 32 => byteOf ws[k.val / 4] (k.val % 4)

/-- SER of sixteen words. -/
def ser16 (ws : Vector Word 16) : Vector Byte 64 :=
  Vector.ofFn fun k : Fin 64 => byteOf ws[k.val / 4] (k.val % 4)

/-- DINB[0..63], the byte view of DIN (10_state.md R46). -/
def State.dinb (s : State) : Vector Byte 64 := ser16 s.din

/-- KINB[0..31], the byte view of KIN (10_state.md R47). -/
def State.kinb (s : State) : Vector Byte 32 := ser8 s.kin

/-- CTRIN = {CTRIN_HI, CTRIN_LO} (10_state.md R48). -/
def State.ctrin (s : State) : Counter := s.ctrinHi ++ s.ctrinLo

/-- UPDATE's input bytes DINB[0..n−1], in order of arrival (30_encoding.md R98, 20_memory.md R81). -/
def State.updateData (s : State) (n : Nat) : List Byte := s.dinb.toList.take n

/-- What INIT saves: KINB[i] for i < kl, 0x00 beyond (41_streaming_state_manager.md R155, 10_state.md R38). -/
def State.keyOperand (s : State) (kl : Nat) : Vector Byte 32 :=
  Vector.ofFn fun i : Fin 32 => if i.val < kl then s.kinb[i] else 0

end Sys2Proof.Machine
end

