-- ==== Sys2Proof/Machine/Mix.lean ====
section
/-! DEFINITION. The compression function F (40_compression_engine.md R120 to R130) and its four-lane form (R132). The tables
and the statement order are the spec's, taken by it from RFC 7693 (log entry 10). -/

namespace Sys2Proof.Machine

/-- IV[0..7] (40_compression_engine.md R120). -/
def iv : Vector Word 8 :=
  #v[0x6A09E667, 0xBB67AE85, 0x3C6EF372, 0xA54FF53A, 0x510E527F, 0x9B05688C, 0x1F83D9AB, 0x5BE0CD19]

/-- σ(0)..σ(9), the message schedule (40_compression_engine.md R121); no row is derived from another (90_conflicts.md C4). -/
def sigma : Vector (Vector (Fin 16) 16) 10 := #v[
  #v[0, 1, 2, 3, 4, 5, 6, 7, 8, 9, 10, 11, 12, 13, 14, 15],
  #v[14, 10, 4, 8, 9, 15, 13, 6, 1, 12, 0, 2, 11, 7, 5, 3],
  #v[11, 8, 12, 0, 5, 2, 15, 13, 10, 14, 3, 6, 7, 1, 9, 4],
  #v[7, 9, 3, 1, 13, 12, 11, 14, 2, 6, 5, 10, 4, 0, 15, 8],
  #v[9, 0, 5, 7, 2, 4, 10, 15, 14, 1, 11, 12, 6, 8, 3, 13],
  #v[2, 12, 6, 10, 0, 11, 8, 3, 4, 13, 7, 5, 15, 14, 1, 9],
  #v[12, 5, 1, 15, 14, 13, 4, 10, 0, 7, 6, 3, 9, 2, 8, 11],
  #v[13, 11, 7, 14, 12, 1, 3, 9, 5, 0, 15, 4, 8, 6, 2, 10],
  #v[6, 15, 14, 9, 11, 3, 0, 8, 12, 2, 13, 7, 1, 4, 10, 5],
  #v[10, 2, 8, 4, 7, 6, 1, 5, 15, 11, 9, 14, 3, 12, 13, 0]]

/-- rotr32(x, n) for 0 < n < 32 (00_scope.md R20). -/
def rotr32 (x : Word) (n : Nat) : Word := (x >>> n) ||| (x <<< (32 - n))

/-- One mixing operation on four words of the working vector, statement by statement (40_compression_engine.md R122). -/
def mixG (a b c d : Fin 16) (x y : Word) (v : Vector Word 16) : Vector Word 16 :=
  let v := v.set a (v[a] + v[b] + x)
  let v := v.set d (rotr32 (v[d] ^^^ v[a]) 16)
  let v := v.set c (v[c] + v[d])
  let v := v.set b (rotr32 (v[b] ^^^ v[c]) 12)
  let v := v.set a (v[a] + v[b] + y)
  let v := v.set d (rotr32 (v[d] ^^^ v[a]) 8)
  let v := v.set c (v[c] + v[d])
  v.set b (rotr32 (v[b] ^^^ v[c]) 7)

/-- The four column steps of a round whose row of σ is `s` (40_compression_engine.md R124). -/
def columnHalf (m : Vector Word 16) (s : Vector (Fin 16) 16) (v : Vector Word 16) : Vector Word 16 :=
  let v := mixG 0 4 8 12 m[s[0]] m[s[1]] v
  let v := mixG 1 5 9 13 m[s[2]] m[s[3]] v
  let v := mixG 2 6 10 14 m[s[4]] m[s[5]] v
  mixG 3 7 11 15 m[s[6]] m[s[7]] v

/-- The four diagonal steps (40_compression_engine.md R124). -/
def diagonalHalf (m : Vector Word 16) (s : Vector (Fin 16) 16) (v : Vector Word 16) : Vector Word 16 :=
  let v := mixG 0 5 10 15 m[s[8]] m[s[9]] v
  let v := mixG 1 6 11 12 m[s[10]] m[s[11]] v
  let v := mixG 2 7 8 13 m[s[12]] m[s[13]] v
  mixG 3 4 9 14 m[s[14]] m[s[15]] v

/-- ROUND(r): columns before diagonals (40_compression_engine.md R124). -/
def mixRound (m : Vector Word 16) (v : Vector Word 16) (r : Fin 10) : Vector Word 16 :=
  diagonalHalf m sigma[r] (columnHalf m sigma[r] v)

/-- M[i] = LE32(block, i) (40_compression_engine.md R126). -/
def messageWords (block : Vector Byte 64) : Vector Word 16 := Vector.ofFn (le32 block)

/-- lo32(t) (00_scope.md R21). -/
def lo32 (t : Counter) : Word := t.extractLsb' 0 32

/-- hi32(t) (00_scope.md R21). -/
def hi32 (t : Counter) : Word := t.extractLsb' 32 32

/-- The working vector before the first round: h, IV, the counter in V[12] and V[13], the flag in V[14]
(40_compression_engine.md R126 to R128). -/
def workingVector (h : Vector Word 8) (t : Counter) (last : Bool) : Vector Word 16 :=
  let v : Vector Word 16 := h ++ iv
  let v := v.set 12 (v[12] ^^^ lo32 t)
  let v := v.set 13 (v[13] ^^^ hi32 t)
  if last then v.set 14 (~~~ v[14]) else v

/-- The fold after the last round: h'[i] = h[i] ^ V[i] ^ V[i + 8] (40_compression_engine.md R126). -/
def foldVector (h : Vector Word 8) (v : Vector Word 16) : Vector Word 8 :=
  Vector.ofFn fun i : Fin 8 => h[i] ^^^ v[i.val] ^^^ v[i.val + 8]

/-- Ten rounds, r = 0 first (40_compression_engine.md R126, 00_scope.md R9). -/
def allRounds (m : Vector Word 16) (v : Vector Word 16) : Vector Word 16 :=
  (List.finRange 10).foldl (mixRound m) v

/-- F(h, block, t, last) (40_compression_engine.md R125, R126): total, deterministic, without side effect (R129). -/
def compressF (h : Vector Word 8) (block : Vector Byte 64) (t : Counter) (last : Bool) : Vector Word 8 :=
  foldVector h (allRounds (messageWords block) (workingVector h t last))

/-! The four-lane form (40_compression_engine.md R132): an equivalent evaluation, one of the datapaths R131 admits. The
machine does not call it. -/

/-- Four 32-bit lanes. -/
abbrev Row := Vector Word 4

/-- The rows R0..R3 of a working vector (40_compression_engine.md R132). -/
structure Rows where
  r0 : Row
  r1 : Row
  r2 : Row
  r3 : Row
  deriving DecidableEq, Repr

/-- R0 = (V0..V3), R1 = (V4..V7), R2 = (V8..V11), R3 = (V12..V15). -/
def Rows.ofVector (v : Vector Word 16) : Rows where
  r0 := #v[v[0], v[1], v[2], v[3]]
  r1 := #v[v[4], v[5], v[6], v[7]]
  r2 := #v[v[8], v[9], v[10], v[11]]
  r3 := #v[v[12], v[13], v[14], v[15]]

/-- The working vector of four rows. -/
def Rows.toVector (r : Rows) : Vector Word 16 := r.r0 ++ r.r1 ++ r.r2 ++ r.r3

/-- The statements of G, applied to lane i of every row at once (40_compression_engine.md R132). -/
def laneG (x y : Row) (r : Rows) : Rows :=
  let r0 := Vector.zipWith (· + ·) (Vector.zipWith (· + ·) r.r0 r.r1) x
  let r3 := (Vector.zipWith (· ^^^ ·) r.r3 r0).map (rotr32 · 16)
  let r2 := Vector.zipWith (· + ·) r.r2 r3
  let r1 := (Vector.zipWith (· ^^^ ·) r.r1 r2).map (rotr32 · 12)
  let r0 := Vector.zipWith (· + ·) (Vector.zipWith (· + ·) r0 r1) y
  let r3 := (Vector.zipWith (· ^^^ ·) r3 r0).map (rotr32 · 8)
  let r2 := Vector.zipWith (· + ·) r2 r3
  let r1 := (Vector.zipWith (· ^^^ ·) r1 r2).map (rotr32 · 7)
  ⟨r0, r1, r2, r3⟩

/-- Rotate lanes left by `k`: lane i takes the old lane (i + k) mod 4 (40_compression_engine.md R132). -/
def rotateLanes (k : Nat) (r : Row) : Row := Vector.ofFn fun i : Fin 4 => r[(i.val + k) % 4]

/-- Rotate R1 left by 1, R2 by 2, R3 by 3. -/
def Rows.diagonalize (r : Rows) : Rows := ⟨r.r0, rotateLanes 1 r.r1, rotateLanes 2 r.r2, rotateLanes 3 r.r3⟩

/-- Rotate R1 right by 1, R2 by 2, R3 by 3, that is left by 3, 2 and 1. -/
def Rows.undiagonalize (r : Rows) : Rows := ⟨r.r0, rotateLanes 3 r.r1, rotateLanes 2 r.r2, rotateLanes 1 r.r3⟩

/-- ROUND(r) on rows (40_compression_engine.md R132). -/
def laneRound (m : Vector Word 16) (r : Rows) (n : Fin 10) : Rows :=
  let s := sigma[n]
  let r := laneG #v[m[s[0]], m[s[2]], m[s[4]], m[s[6]]] #v[m[s[1]], m[s[3]], m[s[5]], m[s[7]]] r
  let r := laneG #v[m[s[8]], m[s[10]], m[s[12]], m[s[14]]] #v[m[s[9]], m[s[11]], m[s[13]], m[s[15]]] r.diagonalize
  r.undiagonalize

/-- F evaluated on four lanes (40_compression_engine.md R131, R132). -/
def laneF (h : Vector Word 8) (block : Vector Byte 64) (t : Counter) (last : Bool) : Vector Word 8 :=
  foldVector h
    ((List.finRange 10).foldl (laneRound (messageWords block)) (Rows.ofVector (workingVector h t last))).toVector

end Sys2Proof.Machine
end

