-- ==== Sys2Proof/Machine/Ops.lean ====
section
/-! DEFINITION. The named operations the meanings and the agents share: taking an error (60_exceptions.md R226), acceptance
and completion (R235, R236), SEED (42_key_expand_block.md R194), TRUNCATE_OUT (43_output_truncator.md R208), ABSORB and
FINALIZE (41_streaming_state_manager.md R162, R168), the register window (10_state.md R51, 20_memory.md R76) and hardware
reset (70_reset_and_hazards.md R250). -/

namespace Sys2Proof.Machine

/-- Change the next state of an answer and leave a stop as it is. -/
def mapNext (f : State → State) : Result → Result
  | .next s => .next (f s)
  | .fault r => .fault r
  | .refused r => .refused r

/-! ## Errors, acceptance, completion -/

/-- Record the verdict of a command in ERR, and nothing else (10_state.md R44). -/
def State.withErr (e : ErrCode) (s : State) : State := { s with err := e }

/-- `raise E`: the ONE operation that takes an error. The command completes with ERR <- its code and "no other state changed"
(00_scope.md R23, 60_exceptions.md R226); there is no trap and no return from it (R231, R232). BUSY is cleared by
`State.complete`, as for every command. -/
def State.raise (e : ErrCode) (s : State) : Result := .next (s.withErr e)

/-- `ERR <- 0`, the last statement of every command that passes its checks. -/
def State.succeed (s : State) : Result := .next (s.withErr .success)

/-- The latency of the next accepted command, in served inputs: the one placed from outside, else the free value LATENCY
(00_scope.md R16, log entry 2). -/
def State.nextLatency (s : State) : Nat :=
  match s.latencies with
  | [] => Config.latency s.accepted
  | n :: _ => n

/-- Acceptance: `PEND <- w, BUSY <- 1` (60_exceptions.md R235), with the model's own record of when it will complete. -/
def State.accept (w : Word) (s : State) : State :=
  { s with
    pend := w
    busy := true
    wait := s.nextLatency
    latencies := s.latencies.tail
    accepted := s.accepted + 1 }

/-- `BUSY <- 0`, at the completion step (60_exceptions.md R236). PEND keeps its value, which then means nothing (10_state.md
R32, log entry 9). -/
def State.complete (s : State) : State := { s with busy := false }

/-! ## The key expand block -/

/-- P(OUTLEN, KEYLEN) = 0x01010000 | (KEYLEN << 8) | OUTLEN (42_key_expand_block.md R190). -/
def paramWord (outlen keylen : BitVec 6) : Word :=
  0x01010000 ||| keylen.setWidth 32 <<< 8 ||| outlen.setWidth 32

/-- H0(OUTLEN, KEYLEN): only word 0 depends on the parameters (42_key_expand_block.md R192, 90_conflicts.md C3). -/
def initialChaining (outlen keylen : BitVec 6) : Vector Word 8 := iv.set 0 (iv[0] ^^^ paramWord outlen keylen)

/-- The 64 bytes SEED leaves in BUF: SKEY[i] for i < KEYLEN, 0x00 elsewhere (42_key_expand_block.md R193, R194). SKEY has 32
bytes, and KEYLEN ≤ 32 in every context (log entry 7). -/
def keyBlock (keylen : BitVec 6) (skey : Vector Byte 32) : Vector Byte 64 :=
  Vector.ofFn fun i : Fin 64 => if h : i.val < 32 then (if i.val < keylen.toNat then skey[i.val] else 0) else 0

/-- SEED: reads OUTLEN, KEYLEN and SKEY, writes H, BUF and CTR, never invokes F (42_key_expand_block.md R194). -/
def State.seed (s : State) : State :=
  { s with
    h := initialChaining s.outlen s.keylen
    buf := keyBlock s.keylen s.skey
    ctr := if 0 < s.keylen.toNat then 64 else 0 }

/-! ## The streaming state manager and the output truncator -/

/-- The compression ABSORB makes when BUF is full and more input follows (41_streaming_state_manager.md R162). -/
def State.flushFull (s : State) : State :=
  if s.ctr ≠ 0 ∧ s.ctr.toNat % 64 = 0 then { s with h := compressF s.h s.buf s.ctr false } else s

/-- `BUF[CTR mod 64] <- b; CTR <- CTR + 1` (41_streaming_state_manager.md R162). -/
def State.push (b : Byte) (s : State) : State :=
  { s with
    buf := s.buf.set (s.ctr.toNat % 64) b (Nat.mod_lt _ (by decide))
    ctr := s.ctr + 1 }

/-- ABSORB(b) (41_streaming_state_manager.md R162). -/
def State.absorb (s : State) (b : Byte) : State := s.flushFull.push b

/-- ABSORB of the bytes of a list, in order (20_memory.md R81). -/
def State.absorbAll (s : State) (bytes : List Byte) : State := bytes.foldl State.absorb s

/-- Zero padding: `BUF[i] <- 0x00` for i in Occ(CTR)..63 (41_streaming_state_manager.md R169). -/
def padBlock (buf : Vector Byte 64) (p : Nat) : Vector Byte 64 :=
  Vector.ofFn fun i : Fin 64 => if i.val < p then buf[i] else 0

/-- The first OUTLEN bytes of RAW, 0x00 beyond (43_output_truncator.md R208). -/
def truncateBytes (raw : Vector Byte 32) (n : Nat) : Vector Byte 32 :=
  Vector.ofFn fun i : Fin 32 => if i.val < n then raw[i] else 0

/-- TRUNCATE_OUT: the digest to DOUT, its length to DLEN (43_output_truncator.md R208). -/
def State.truncateOut (s : State) : State :=
  { s with
    dout := truncateBytes (ser8 s.h) s.outlen.toNat
    dlen := s.outlen }

/-- The padding and the compression with last = true (41_streaming_state_manager.md R168, R169). -/
def State.lastBlock (s : State) : State :=
  { s with
    buf := padBlock s.buf (occ s.ctr)
    h := compressF s.h (padBlock s.buf (occ s.ctr)) s.ctr true }

/-- Poisoning: CTR <- 2^64 − 1 (41_streaming_state_manager.md R170). -/
def State.poison (s : State) : State := { s with ctr := sentinel }

/-- FINALIZE: pad, compress, truncate, poison (41_streaming_state_manager.md R168). -/
def State.finalize (s : State) : State := s.lastBlock.truncateOut.poison

/-! ## The register window -/

/-- The registers of the window (10_state.md R51). -/
inductive Reg where
  | cmd
  | status
  | cfg
  | ctrLo
  | ctrHi
  | ctrinLo
  | ctrinHi
  | din (i : Fin 16)
  | kin (i : Fin 8)
  | dout (i : Fin 8)
  | reserved
  deriving DecidableEq, Repr

/-- The register of word slot `n`, at byte offset 4n (10_state.md R51). -/
def Reg.ofSlot (n : Nat) : Reg :=
  if n = 0 then .cmd
  else if n = 1 then .status
  else if n = 2 then .cfg
  else if n = 4 then .ctrLo
  else if n = 5 then .ctrHi
  else if n = 6 then .ctrinLo
  else if n = 7 then .ctrinHi
  else if h : 16 ≤ n ∧ n < 32 then .din ⟨n - 16, by omega⟩
  else if h : 32 ≤ n ∧ n < 40 then .kin ⟨n - 32, by omega⟩
  else if h : 40 ≤ n ∧ n < 48 then .dout ⟨n - 40, by omega⟩
  else .reserved

/-- An access is admitted when it is an aligned 32-bit access (20_memory.md R72). -/
def admitted (width : Width) (off : BitVec 8) : Bool := width == .word && off.toNat % 4 == 0

/-- The register at a byte offset; meaningful for admitted accesses, which are aligned. -/
def Reg.ofOff (off : BitVec 8) : Reg := Reg.ofSlot (off.toNat / 4)

/-- The bus address of an offset, BASE + off (00_scope.md R23, 20_memory.md R70, log entry 13). -/
def addrOf (off : BitVec 8) : Nat := Config.base + off.toNat

/-- The offset the port carries for a bus address inside the window BASE..BASE+0xFF (20_memory.md R70, R71). -/
def offsetOf (addr : Nat) : Option (BitVec 8) :=
  if Config.base ≤ addr ∧ addr < Config.base + 256 then some (BitVec.ofNat 8 (addr - Config.base)) else none

/-- DOUTi, the little-endian word of DOUT bytes 4i..4i+3 (10_state.md R56). -/
def State.doutWord (s : State) (i : Fin 8) : Word :=
  wordOfBytes s.dout[4 * i.val] s.dout[4 * i.val + 1] s.dout[4 * i.val + 2] s.dout[4 * i.val + 3]

/-- The value a read of a register returns; no read has a side effect (20_memory.md R76, 10_state.md R52 to R57). -/
def State.readReg (s : State) : Reg → Word
  | .cmd => 0
  | .status => s.statusWord
  | .cfg => s.cfgWord
  | .ctrLo => lo32 s.ctr
  | .ctrHi => hi32 s.ctr
  | .ctrinLo => s.ctrinLo
  | .ctrinHi => s.ctrinHi
  | .din i => s.din[i]
  | .kin i => s.kin[i]
  | .dout i => s.doutWord i
  | .reserved => 0

/-- A write that must not disturb a running command: while BUSY = 1 it is dropped and OVR <- 1 (20_memory.md R76,
60_exceptions.md R229). -/
def State.ifIdle (s : State) (s' : State) : State := if s.busy then { s with ovr := true } else s'

/-- A write to STATUS: OVR <- 0 if bit 3 of the value is 1; every other bit is ignored (10_state.md R53). -/
def State.writeStatus (v : Word) (s : State) : State := if v.getLsbD 3 then { s with ovr := false } else s

/-- The effect of a write to a register (20_memory.md R76). -/
def State.writeReg (s : State) (v : Word) : Reg → State
  | .cmd => s.ifIdle (s.accept v)
  | .status => s.writeStatus v
  | .cfg => s
  | .ctrLo => s
  | .ctrHi => s
  | .ctrinLo => s.ifIdle { s with ctrinLo := v }
  | .ctrinHi => s.ifIdle { s with ctrinHi := v }
  | .din i => s.ifIdle { s with din := s.din.set i v }
  | .kin i => s.ifIdle { s with kin := s.kin.set i v }
  | .dout _ => s
  | .reserved => s

/-- Hardware reset: every piece of the block's state takes its reset value and a pending command is abandoned (70_reset_and_hazards.md
R250, 60_exceptions.md R238). What belongs to the outside world, the level of the reset input included, is kept (log entry 11). -/
def State.hardwareReset (s : State) : State :=
  { State.reset with
    resetIn := s.resetIn
    host := s.host
    replies := s.replies
    latencies := s.latencies
    accepted := s.accepted }

/-- The hardware reset input becomes asserted (70_reset_and_hazards.md R250). -/
def State.assertReset (s : State) : State := { s.hardwareReset with resetIn := true }

/-- The hardware reset input becomes deasserted, on a block it has held at its reset values (70_reset_and_hazards.md R250). -/
def State.releaseReset (s : State) : State := { s with resetIn := false }

end Sys2Proof.Machine
end

