-- ==== Sys2Proof/Machine/Compress.lean ====
section
/-! DEFINITION. The meaning of COMPRESS (40_compression_engine.md R133). -/

namespace Sys2Proof.Machine

/-- `DOUT <- SER(st'); DLEN <- 32` (40_compression_engine.md R133): the output is never truncated. -/
def State.outputState (st : Vector Word 8) (s : State) : State :=
  { s with
    dout := ser8 st
    dlen := 32 }

/-- COMPRESS (40_compression_engine.md R133): F of KIN, DIN and CTRIN to DOUT; the context is not touched and none is needed. -/
def execCompress (last : Bool) (s : State) : Result :=
  (s.outputState (compressF s.kin s.dinb s.ctrin last)).succeed

end Sys2Proof.Machine
end

