-- ==== Sys2Proof/Machine/Streaming.lean ====
section
/-! DEFINITION. The meanings of INIT, UPDATE, FINAL, FINAL_RESET and RESET (41_streaming_state_manager.md), each the pseudocode of its
rule; the checks stand in the order of 60_exceptions.md R227. BUSY <- 0 is the Engine's (R236). -/

namespace Sys2Proof.Machine

/-- The writes of a successful INIT before SEED (41_streaming_state_manager.md R155). -/
def State.newContext (outlen keylen : BitVec 6) (s : State) : State :=
  { s with
    outlen := outlen
    keylen := keylen
    skey := s.keyOperand keylen.toNat
    ctx := true
    dout := Vector.replicate 32 0
    dlen := 0 }

/-- INIT (41_streaming_state_manager.md R155). -/
def execInit (outlen keylen : BitVec 6) (s : State) : Result :=
  if outlen.toNat < 1 ∨ 32 < outlen.toNat then s.raise .invalidOutputLength
  else if 32 < keylen.toNat then s.raise .invalidKeyLength
  else (s.newContext outlen keylen).seed.succeed

/-- UPDATE (41_streaming_state_manager.md R160). No word decodes to NBYTES > 64 (30_encoding.md R101); such a term is answered as
60_exceptions.md R222 and R227 say of the word that would spell it (log entry 8). -/
def execUpdate (nbytes : BitVec 7) (s : State) : Result :=
  if 64 < nbytes.toNat then s.raise .invalidCommand
  else if s.ctx = false then s.raise .noContext
  else if s.ctr = sentinel then s.raise .useAfterFinalize
  else if counterOverflows s.ctr nbytes.toNat then s.raise .counterOverflow
  else (s.absorbAll (s.updateData nbytes.toNat)).succeed

/-- FINAL (41_streaming_state_manager.md R168). -/
def execFinal (s : State) : Result :=
  if s.ctx = false then s.raise .noContext
  else if s.ctr = sentinel then s.raise .useAfterFinalize
  else s.finalize.succeed

/-- FINAL_RESET (41_streaming_state_manager.md R174): the intermediate poisoned state is never observable. -/
def execFinalReset (s : State) : Result :=
  if s.ctx = false then s.raise .noContext
  else if s.ctr = sentinel then s.raise .useAfterFinalize
  else s.finalize.seed.succeed

/-- RESET (41_streaming_state_manager.md R178): legal on a poisoned context. -/
def execReset (s : State) : Result :=
  if s.ctx = false then s.raise .noContext
  else s.seed.succeed

end Sys2Proof.Machine
end

