-- ==== Sys2Proof/Machine/Dispatch.lean ====
section
/-! DEFINITION. One arm per command (30_encoding.md R95). -/

namespace Sys2Proof.Machine

def exec (i : Instr) (s : State) : Host.Outcome State Fault Refusal :=
  match i with
  | .init outlen keylen => Sys2Proof.Machine.execInit outlen keylen s
  | .update nbytes => Sys2Proof.Machine.execUpdate nbytes s
  | .final => Sys2Proof.Machine.execFinal s
  | .finalReset => Sys2Proof.Machine.execFinalReset s
  | .reset => Sys2Proof.Machine.execReset s
  | .compress last => Sys2Proof.Machine.execCompress last s

end Sys2Proof.Machine
end

