-- ==== Sys2Proof/Machine/Engine.lean ====
section
/-! DEFINITION. The Engine's one step (00_scope.md R18): the completion of the accepted command (60_exceptions.md R236). -/

namespace Sys2Proof.Machine

/-- The decoded command's pseudocode, or InvalidCommand for a word that decodes as Invalid (60_exceptions.md R222, 30_encoding.md
R100, R102). -/
def State.runPending (s : State) : Result :=
  match decode s.pend with
  | .ok i => exec i s
  | .error _ => s.raise .invalidCommand

/-- Completion: in one atomic step decode PEND, execute, write ERR and clear BUSY (60_exceptions.md R236). -/
def engineStep (s : State) : Result := mapNext State.complete s.runPending

end Sys2Proof.Machine
end

