-- ==== Sys2Proof/Machine/HostPort.lean ====
section
/-! DEFINITION. The Host's side of the bus port (20_memory.md R71): serving one input, and whose turn it is (00_scope.md R18,
20_memory.md R80; log entries 1 and 2). -/

namespace Sys2Proof.Machine

/-- A read returns a 32-bit value to the Host (20_memory.md R71). -/
def State.reply (v : Word) (s : State) : State := { s with replies := s.replies ++ [v] }

/-- The Host's next input is taken; while a command runs its remaining latency goes down by one. -/
def State.takeInput (rest : List HostOp) (s : State) : State :=
  { s with
    host := rest
    wait := s.wait - 1 }

/-- A register read (20_memory.md R76), or the refusal of R72. -/
def serveRead (width : Width) (off : BitVec 8) (s : State) : Result :=
  if admitted width off then .next (s.reply (s.readReg (Reg.ofOff off))) else .refused (.unadmittedAccess width off)

/-- A register write (20_memory.md R76), or the refusal of R72. -/
def serveWrite (width : Width) (off : BitVec 8) (value : Word) (s : State) : Result :=
  if admitted width off then .next (s.writeReg value (Reg.ofOff off)) else .refused (.unadmittedAccess width off)

/-- One round of POLL: `RD 0x04`, and POLL again while bit 0 reads 1 (30_encoding.md R108). -/
def State.pollOnce (s : State) : State :=
  if s.statusWord.getLsbD 0 then { s.reply s.statusWord with host := .poll :: s.host } else s.reply s.statusWord

/-- The Host's conditional stop: `RD 0x04`, and without its next `n` inputs if ERR reads nonzero (30_encoding.md R111). -/
def State.stopOnErr (n : Nat) (s : State) : State :=
  if s.statusWord.extractLsb' 4 4 = 0 then s.reply s.statusWord
  else { s.reply s.statusWord with host := s.host.drop n }

/-- Serve one input of the outside world on a state from whose queue it has been taken, the reset input being deasserted;
deasserting it again is no event. -/
def serve (op : HostOp) (s : State) : Result :=
  match op with
  | .read width off => serveRead width off s
  | .write width off value => serveWrite width off value s
  | .poll => .next s.pollOnce
  | .skipIfErr n => .next (s.stopOnErr n)
  | .assertReset => .next s.assertReset
  | .releaseReset => .next s

/-- A register write while hardware reset is asserted: "every piece of state takes the value of 10_state.md rule R62"
(70_reset_and_hazards.md R250), so it leaves nothing behind; the accesses that are not admitted are the same (20_memory.md R72). -/
def serveHeldWrite (width : Width) (off : BitVec 8) (s : State) : Result :=
  if admitted width off then .next s else .refused (.unadmittedAccess width off)

/-- Serve one input while hardware reset is asserted, on a block at its reset values (70_reset_and_hazards.md R250): every read
gives the 0 its register then holds, and a write changes nothing. -/
def serveHeld (op : HostOp) (s : State) : Result :=
  match op with
  | .read width off => serveRead width off s
  | .write width off _ => serveHeldWrite width off s
  | .poll => .next s.pollOnce
  | .skipIfErr n => .next (s.stopOnErr n)
  | .assertReset => .next s
  | .releaseReset => .next s.releaseReset

/-- A step while hardware reset is asserted: the block takes its reset values, and the oldest input is served on them
(70_reset_and_hazards.md R250, log entry 11). -/
def heldStep (s : State) : Result :=
  match s.host with
  | [] => .next s.hardwareReset
  | op :: rest => serveHeld op (s.hardwareReset.takeInput rest)

/-- The Host's step, the reset input being deasserted: its oldest input, in program order (20_memory.md R80). An empty queue leaves the state as it is. -/
def hostStep (s : State) : Result :=
  match s.host with
  | [] => .next s
  | op :: rest => serve op (s.takeInput rest)

/-- Whether an input has a step. An access that is not admitted has none: "the Host agent is stuck" (20_memory.md R72). -/
def HostOp.enabled : HostOp → Bool
  | .read width off => admitted width off
  | .write width off _ => admitted width off
  | .poll => true
  | .skipIfErr _ => true
  | .assertReset => true
  | .releaseReset => true

/-- The Host has an input that can be served. -/
def State.hostReady (s : State) : Bool :=
  match s.host with
  | [] => false
  | op :: _ => op.enabled

/-- Who takes the next step. The Engine's step is enabled exactly when BUSY = 1 (60_exceptions.md R236); it is taken when the
command's latency is used up or the Host has no step (weak fairness, R237). While hardware reset is asserted no command
completes (R238, 70_reset_and_hazards.md R250). -/
def State.engineTurn (s : State) : Bool := !s.resetIn && s.busy && (s.wait == 0 || !s.hostReady)

/-- A command word standing accepted, about to complete (log entry 3). -/
def State.placeCommand (w : Word) (s : State) : State :=
  { s with
    pend := w
    busy := true
    resetIn := false
    wait := 0 }

end Sys2Proof.Machine
end

