-- ==== Sys2Proof/Machine/Step.lean ====
section
/-! DEFINITION. One step: the block held by its reset input while that is asserted (70_reset_and_hazards.md R250), else the Engine's
step when it is its turn, else the Host's next input; with none of them the block idles (60_exceptions.md R244,
70_reset_and_hazards.md R251). And how the host of this row places an instruction. -/

namespace Sys2Proof.Machine

/-- One step of the block and its one Host (00_scope.md R18). -/
def step (s : State) : Host.Outcome State Fault Refusal :=
  if s.resetIn then heldStep s else if s.engineTurn then engineStep s else hostStep s

/-- `s` with a command word standing accepted, so that the next step completes it (log entry 3): the block fetches nothing
(10_state.md R31), so the word stands in PEND with BUSY = 1, the reset input deasserted. -/
def State.withFetchWord (s : State) (nbits w : Nat) : State := s.placeCommand (tableWord nbits w)

end Sys2Proof.Machine
end

