-- ==== Sys2Proof/Safety.lean ====
section
/-! DEFINITION. The terms claims about this machine are stated in: the invariant of every reachable state (10_state.md R59,
R61, R62), what two states share (10_state.md R26, R64), a stream fed by UPDATE commands (41_streaming_state_manager.md R166)
and the digest as a function of key and message (R167, R171 to R173, 42_key_expand_block.md R193, 43_output_truncator.md R206). -/

namespace Sys2Proof.Machine

/-! ## The invariant -/

/-- With a context: the ranges of OUTLEN and KEYLEN and the zero tail of SKEY (10_state.md R59); a keyed context has counted
its key block (R35, 42_key_expand_block.md R194). -/
abbrev State.ContextLegal (s : State) : Prop :=
  s.ctx = true →
    1 ≤ s.outlen.toNat ∧ s.outlen.toNat ≤ 32 ∧ s.keylen.toNat ≤ 32
      ∧ (∀ i : Fin 32, s.keylen.toNat ≤ i.val → s.skey[i] = 0)
      ∧ (0 < s.keylen.toNat → 64 ≤ s.ctr.toNat)

/-- Without a context: the context state still has its reset value (10_state.md R62), because only a successful INIT writes it
before UPDATE, FINAL, FINAL_RESET and RESET may (60_exceptions.md R223, R226). -/
abbrev State.BlankWithoutContext (s : State) : Prop :=
  s.ctx = false →
    s.h = Vector.replicate 8 0 ∧ s.buf = Vector.replicate 64 0 ∧ s.ctr = 0 ∧ s.outlen = 0 ∧ s.keylen = 0
      ∧ s.skey = Vector.replicate 32 0

/-- DLEN ≤ 32 and DOUT is 0 from DLEN on (10_state.md R61). -/
abbrev State.OutputLegal (s : State) : Prop :=
  s.dlen.toNat ≤ 32 ∧ ∀ i : Fin 32, s.dlen.toNat ≤ i.val → s.dout[i] = 0

/-- While the hardware reset input is asserted, the block stands at its reset values (70_reset_and_hazards.md R250). -/
abbrev State.HeldByReset (s : State) : Prop := s.resetIn = true → s.hardwareReset = s

/-- What holds in every state a run from hardware reset reaches. -/
abbrev State.Inv (s : State) : Prop := s.ContextLegal ∧ s.BlankWithoutContext ∧ s.OutputLegal ∧ s.HeldByReset

/-! ## What states share -/

/-- The same context {H, BUF, CTR, OUTLEN, KEYLEN, SKEY} and CTX (00_scope.md R26). -/
abbrev SameContext (s t : State) : Prop :=
  s.h = t.h ∧ s.buf = t.buf ∧ s.ctr = t.ctr ∧ s.outlen = t.outlen ∧ s.keylen = t.keylen ∧ s.skey = t.skey ∧ s.ctx = t.ctx

/-- A state with the secret part of its context, H, BUF and SKEY, blanked (10_state.md R64). -/
def State.public (s : State) : State :=
  { s with
    h := Vector.replicate 8 0
    buf := Vector.replicate 64 0
    skey := Vector.replicate 32 0 }

/-! ## Turns and runs -/

/-- The next step serves the input `op` of the outside world, the reset input being deasserted. -/
abbrev State.Serves (s : State) (op : HostOp) (rest : List HostOp) : Prop :=
  s.resetIn = false ∧ s.engineTurn = false ∧ s.host = op :: rest

/-- The hardware reset input is asserted, or becomes so in the next step. -/
abbrev State.UnderReset (s : State) : Prop := s.resetIn = true ∨ ∃ rest, s.Serves .assertReset rest

/-- Every piece of the block's state has its reset value (10_state.md R62); the outside world's own fields may be anything. -/
abbrev State.AtReset (s : State) : Prop :=
  ∃ (resetIn : Bool) (host : List HostOp) (replies : List Word) (wait : Nat) (latencies : List Nat) (accepted : Nat),
    s = { State.reset with
      resetIn := resetIn, host := host, replies := replies, wait := wait, latencies := latencies, accepted := accepted }

/-- The next step completes the command `i`. -/
abbrev State.Completes (s : State) (i : Instr) : Prop := s.engineTurn = true ∧ decode s.pend = .ok i

/-- `k` steps, stopping at the first refusal. -/
def runFor : Nat → State → Result
  | 0, s => .next s
  | k + 1, s =>
    match step s with
    | .next t => runFor k t
    | .fault r => .fault r
    | .refused r => .refused r

/-- The offsets of CMD and of the staging registers, the writes that must not meet a running command (20_memory.md R76, 10_state.md
R51): CMD, CTRIN_LO, CTRIN_HI, DIN0..15, KIN0..7. -/
abbrev GuardedOffset (off : BitVec 8) : Prop :=
  off.toNat % 4 = 0 ∧ (off = 0x00 ∨ off = 0x18 ∨ off = 0x1C ∨ (0x40 ≤ off.toNat ∧ off.toNat ≤ 0x9C))

/-- The offsets of the staging registers (10_state.md R51, R63). -/
abbrev StagingOffset (off : BitVec 8) : Prop := GuardedOffset off ∧ off ≠ 0x00

/-- The reserved offsets (10_state.md R57): 0x0C, 0x20–0x3C, 0xC0–0xFC. -/
abbrev ReservedOffset (off : BitVec 8) : Prop :=
  off.toNat % 4 = 0
    ∧ (off = 0x0C ∨ (0x20 ≤ off.toNat ∧ off.toNat ≤ 0x3C) ∨ (0xC0 ≤ off.toNat ∧ off.toNat ≤ 0xFC))

/-- The offsets of the read-only registers CFG, CTR_LO, CTR_HI and DOUT0..7 (10_state.md R51). -/
abbrev ReadOnlyOffset (off : BitVec 8) : Prop :=
  off.toNat % 4 = 0
    ∧ (off = 0x08 ∨ off = 0x10 ∨ off = 0x14 ∨ (0xA0 ≤ off.toNat ∧ off.toNat ≤ 0xBC))

/-! ## Streams -/

/-- What one UPDATE is given: the contents of DIN and the number of bytes. -/
abbrev Chunk := Vector Word 16 × BitVec 7

/-- The bytes an UPDATE absorbs (30_encoding.md R98); DIN bytes beyond them are not read (41_streaming_state_manager.md R160). -/
def Chunk.bytes (c : Chunk) : List Byte := (ser16 c.1).toList.take c.2.toNat

/-- The bytes of a stream in order (20_memory.md R81). -/
def streamBytes (chunks : List Chunk) : List Byte := chunks.flatMap Chunk.bytes

/-- UPDATE after UPDATE, each with its own DIN. -/
def feed : List Chunk → State → Result
  | [], s => .next s
  | c :: rest, s =>
    match exec (.update c.2) { s with din := c.1 } with
    | .next t => feed rest t
    | .fault r => .fault r
    | .refused r => .refused r

/-! ## The digest as a function -/

/-- A block of the bytes of a list, zero padded (41_streaming_state_manager.md R169). -/
def toBlock (bytes : List Byte) : Vector Byte 64 := Vector.ofFn fun i : Fin 64 => bytes.getD i.val 0

/-- Everything a context absorbs: the key padded to a block, if there is a key, then the message (42_key_expand_block.md R193). -/
def absorbedBytes (key data : List Byte) : List Byte :=
  if key = [] then data else key ++ List.replicate (64 - key.length) 0 ++ data

/-- Block by block: every block but the last is compressed with the bytes counted so far and last = false, the last one (1 to 64
bytes, or none at all of an empty message) with the total and last = true (41_streaming_state_manager.md R171 to R173). The
first argument bounds the number of blocks before the last. -/
def compressStream : Nat → Vector Word 8 → Nat → List Byte → Vector Word 8
  | 0, h, t, bytes => compressF h (toBlock bytes) (BitVec.ofNat 64 (t + bytes.length)) true
  | n + 1, h, t, bytes =>
    if bytes.length ≤ 64 then compressF h (toBlock bytes) (BitVec.ofNat 64 (t + bytes.length)) true
    else
      compressStream n (compressF h (toBlock (bytes.take 64)) (BitVec.ofNat 64 (t + 64)) false) (t + 64) (bytes.drop 64)

/-- The BLAKE2s digest of 1 to 32 bytes of a message, unkeyed or keyed (00_scope.md R1, 43_output_truncator.md R206). -/
def blake2s (outlen keylen : BitVec 6) (key data : List Byte) : List Byte :=
  let absorbed := absorbedBytes key data
  (ser8 (compressStream absorbed.length (initialChaining outlen keylen) 0 absorbed)).toList.take outlen.toNat

end Sys2Proof.Machine
end

