-- ==== Sys2Proof/Certificates/Slice0/Obligations.lean ====
section
/-! DEFINITION. The statements of this row, for the provers. Each docstring names the rule of spec/ it formalises. -/

open Sys2Proof Sys2Proof.Machine

/-! ## Encoding -/

/-- 30_encoding.md R107, R92 to R94 (sanity): words written out from the formats decode to the commands they spell. -/
def Obligations.SpecWordsDecodeToTheirCommands : Prop :=
  decode 0x00002001 = .ok (.init 32 0) ∧ decode 0x00202001 = .ok (.init 32 32)
    ∧ decode 0x00001001 = .ok (.init 16 0) ∧ decode 0x00000302 = .ok (.update 3)
    ∧ decode 0x00004002 = .ok (.update 64) ∧ decode 0x00000003 = .ok .final
    ∧ decode 0x00000004 = .ok .finalReset ∧ decode 0x00000005 = .ok .reset
    ∧ decode 0x00000106 = .ok (.compress true) ∧ decode 0x00000006 = .ok (.compress false)

/-- 30_encoding.md R100, R107: the decoder gives back every command the encoder spells, with every operand at every value
the format admits. -/
def Obligations.DecodeOfEncodeIsTheCommand : Prop :=
  ∀ i : Instr, i.wellFormed = true → decode (encode i) = .ok i

/-- 30_encoding.md R100, R107: every word that decodes is the one encoding of a well-formed command, so no bit of it is
dropped. -/
def Obligations.DecodedWordIsItsEncoding : Prop :=
  ∀ (w : Word) (i : Instr), decode w = .ok i → encode i = w ∧ i.wellFormed = true

/-- 30_encoding.md R96, R101 (stated): which words decode to which command, by the match and mask of the table and the free
fields read from the word. -/
def Obligations.DecodeFollowsMatchAndMask : Prop :=
  ∀ w : Word,
    (∀ outlen keylen : BitVec 6, decode w = .ok (.init outlen keylen) ↔
        w &&& 0xFFC0C0FF = 0x00000001 ∧ outlen = w.extractLsb' 8 6 ∧ keylen = w.extractLsb' 16 6)
      ∧ (∀ nbytes : BitVec 7, decode w = .ok (.update nbytes) ↔
          w &&& 0xFFFF80FF = 0x00000002 ∧ nbytes = w.extractLsb' 8 7 ∧ nbytes.toNat ≤ 64)
      ∧ (decode w = .ok .final ↔ w &&& 0xFFFFFFFF = 0x00000003)
      ∧ (decode w = .ok .finalReset ↔ w &&& 0xFFFFFFFF = 0x00000004)
      ∧ (decode w = .ok .reset ↔ w &&& 0xFFFFFFFF = 0x00000005)
      ∧ (∀ last : Bool, decode w = .ok (.compress last) ↔ w &&& 0xFFFFFEFF = 0x00000006 ∧ last = w.getLsbD 8)
      ∧ (∀ r ∈ matchTable, ∀ r' ∈ matchTable, r.selects w = true → r'.selects w = true → r = r')

/-- 60_exceptions.md R222, 30_encoding.md R91 to R94, R104 (stated): a word with a reserved opcode, a reserved bit set or
NBYTES > 64 completes with InvalidCommand and changes nothing else. -/
def Obligations.ReservedWordCompletesWithInvalidCommand : Prop :=
  ∀ s : State, s.engineTurn = true →
    (s.pend.extractLsb' 0 4 = 0 ∨ 7 ≤ (s.pend.extractLsb' 0 4).toNat
      ∨ s.pend.extractLsb' 4 4 ≠ 0
      ∨ (s.pend.extractLsb' 0 4 = 1 ∧ (s.pend.extractLsb' 14 2 ≠ 0 ∨ s.pend.extractLsb' 22 10 ≠ 0))
      ∨ (s.pend.extractLsb' 0 4 = 2 ∧ (s.pend.extractLsb' 15 17 ≠ 0 ∨ 64 < (s.pend.extractLsb' 8 7).toNat))
      ∨ ((s.pend.extractLsb' 0 4 = 3 ∨ s.pend.extractLsb' 0 4 = 4 ∨ s.pend.extractLsb' 0 4 = 5)
          ∧ s.pend.extractLsb' 8 24 ≠ 0)
      ∨ (s.pend.extractLsb' 0 4 = 6 ∧ s.pend.extractLsb' 9 23 ≠ 0)) →
    step s = .next { s with err := .invalidCommand, busy := false }

/-! ## Reset -/

/-- 10_state.md R62 (stated): the value of every piece of state after hardware reset, and every register of the window
reads 0. -/
def Obligations.ResetStateHasTheSpecValues : Prop :=
  (∀ i : Fin 8, State.reset.h[i] = 0) ∧ (∀ i : Fin 64, State.reset.buf[i] = 0) ∧ State.reset.ctr = 0
    ∧ State.reset.outlen = 0 ∧ State.reset.keylen = 0 ∧ (∀ i : Fin 32, State.reset.skey[i] = 0)
    ∧ State.reset.ctx = false ∧ (∀ i : Fin 32, State.reset.dout[i] = 0) ∧ State.reset.dlen = 0
    ∧ State.reset.busy = false ∧ State.reset.err.code = 0 ∧ State.reset.ovr = false ∧ State.reset.pend = 0
    ∧ (∀ i : Fin 16, State.reset.din[i] = 0) ∧ (∀ i : Fin 8, State.reset.kin[i] = 0)
    ∧ State.reset.ctrinLo = 0 ∧ State.reset.ctrinHi = 0
    ∧ ∀ off : BitVec 8, State.reset.readReg (Reg.ofOff off) = 0

/-- 70_reset_and_hazards.md R250, 60_exceptions.md R238: when the hardware reset input becomes asserted the block has its reset
state, whatever it was doing, a pending command included. What this leaves of the outside world's own fields is the model's choice
(log entry 11) and is not stated. -/
def Obligations.HardwareResetInputResetsTheBlock : Prop :=
  ∀ (s : State) (rest : List HostOp), s.Serves .assertReset rest →
    ∃ t, step s = .next t ∧ t.AtReset ∧ t.resetIn = true ∧ t.host = rest

/-- 70_reset_and_hazards.md R250 (stated): while the hardware reset input is asserted, and at its deassertion, every piece of state has
its reset value and every register of the window reads 0; CTX is cleared by it alone. -/
def Obligations.HardwareResetHoldsTheResetState : Prop :=
  (∀ s t : State, step s = .next t → (s.resetIn = true ∨ t.resetIn = true) →
      t.AtReset ∧ ∀ off : BitVec 8, t.readReg (Reg.ofOff off) = 0)
    ∧ ∀ s t : State, step s = .next t → s.ctx = true → t.ctx = false → s.UnderReset

/-- 70_reset_and_hazards.md R250, 20_memory.md R76: the accesses made while hardware reset is asserted. A read gives 0, a write leaves
nothing behind, and the input stays asserted; releasing it leaves the block in its reset state; with no input the block waits. That an
access made then is served like any other is the model's reading of the rule (log entry 11). -/
def Obligations.AccessesUnderResetFindTheResetState : Prop :=
  ∀ s : State, s.resetIn = true →
    (∀ off rest, s.host = .read .word off :: rest → off.toNat % 4 = 0 →
        ∃ t, step s = .next t ∧ t.AtReset ∧ t.resetIn = true ∧ t.host = rest ∧ t.replies = s.replies ++ [0])
      ∧ (∀ off v rest, s.host = .write .word off v :: rest → off.toNat % 4 = 0 →
        ∃ t, step s = .next t ∧ t.AtReset ∧ t.resetIn = true ∧ t.host = rest ∧ t.replies = s.replies)
      ∧ (∀ rest, s.host = .releaseReset :: rest →
        ∃ t, step s = .next t ∧ t.AtReset ∧ t.resetIn = false ∧ t.host = rest ∧ t.replies = s.replies)
      ∧ (s.host = [] →
        ∃ t, step s = .next t ∧ t.AtReset ∧ t.resetIn = true ∧ t.host = [] ∧ t.replies = s.replies)

/-- 10_state.md R59, R61, R62 (sanity): the invariant holds after reset. -/
def Obligations.ResetStateMeetsTheInvariant : Prop := State.reset.Inv

/-- 10_state.md R59, R61, R62: from every state that meets the invariant a step gives a state that meets it. -/
def Obligations.EveryStepKeepsTheInvariant : Prop :=
  ∀ s t : State, s.Inv → step s = .next t → t.Inv

/-! ## The Engine -/

/-- 60_exceptions.md R236, 30_encoding.md R102: when the Engine takes its step and PEND decodes, the step is the decoded
command, with BUSY cleared. -/
def Obligations.StepRunsTheDecodedCommand : Prop :=
  ∀ (s t : State) (i : Instr), s.resetIn = false → s.busy = true → (s.wait = 0 ∨ s.hostReady = false) →
    decode s.pend = .ok i →
    exec i s = .next t → step s = .next { t with busy := false }

/-- 30_encoding.md R90, 60_exceptions.md R235, R236 (sanity): a command word placed by `withFetchWord` is the one the very next
step runs. -/
def Obligations.PlacedWordIsTheNextCommand : Prop :=
  ∀ (s t : State) (w : Word) (i : Instr), decode w = .ok i →
    exec i { s with pend := w, busy := true, resetIn := false, wait := 0 } = .next t →
    step (s.withFetchWord 32 w.toNat) = .next { t with busy := false }

/-- 60_exceptions.md R237, 00_scope.md R16: an accepted command completes after finitely many Host steps; `wait` is the latency
the model counts (log entry 2). -/
def Obligations.AcceptedCommandCompletes : Prop :=
  ∀ s : State, s.resetIn = false → s.busy = true → ∃ k t, k ≤ s.wait + 1 ∧ runFor k s = .next t ∧ t.busy = false

/-- 20_memory.md R84, R76, 60_exceptions.md R235: while a command runs, no input changes its word, its staging
operands, the context, the output or ERR: it completes on what stood there at its acceptance. -/
def Obligations.RunningCommandIsNotDisturbed : Prop :=
  ∀ (k : Nat) (s t : State), (∀ j u, j ≤ k → runFor j s = .next u → u.busy = true) → runFor k s = .next t →
    t.pend = s.pend ∧ t.din = s.din ∧ t.kin = s.kin ∧ t.ctrin = s.ctrin ∧ SameContext t s ∧ t.dout = s.dout
      ∧ t.dlen = s.dlen ∧ t.err = s.err

/-- 60_exceptions.md R244: with no command accepted and no input, the block keeps all its state. -/
def Obligations.IdleBlockKeepsItsState : Prop :=
  ∀ s : State, s.resetIn = false → s.busy = false → s.host = [] → step s = .next s

/-! ## The Host's port

The queue `host`, the list `replies` and the count `wait` are the model's own (log entries 1 and 2); what an access leaves of
`wait` is left open in these statements. -/

/-- 60_exceptions.md R235: acceptance, and what the Host reads in the state right after it: what it read before, but for BUSY. The latency the model draws for the command (the
fields `wait`, `latencies`, `accepted`) is its own choice (log entry 2) and is left open. -/
def Obligations.CmdWriteIsAccepted : Prop :=
  ∀ (s : State) (v : Word) (rest : List HostOp), s.resetIn = false → s.busy = false →
    s.host = .write .word 0x00 v :: rest →
    ∃ (t : State) (wait : Nat) (latencies : List Nat) (accepted : Nat),
      step s = .next t
        ∧ t = { s with
            pend := v, busy := true, host := rest, wait := wait, latencies := latencies, accepted := accepted }
        ∧ ∀ r : Reg, t.readReg r = { s with busy := true }.readReg r

/-- 60_exceptions.md R229, 20_memory.md R76: a write to CMD or to a staging register while BUSY = 1 is dropped and sets OVR;
nothing else of the block changes. -/
def Obligations.WriteWhileBusyIsDropped : Prop :=
  ∀ (s : State) (off : BitVec 8) (v : Word) (rest : List HostOp),
    s.Serves (.write .word off v) rest → s.busy = true → GuardedOffset off →
    ∃ wait, step s = .next { s with ovr := true, host := rest, wait := wait }

/-- 10_state.md R45 (stated): what sets OVR and what clears it. -/
def Obligations.OvrSetByDroppedWriteClearedByHost : Prop :=
  ∀ s t : State, step s = .next t →
    (s.ovr = false → t.ovr = true →
        s.busy = true ∧ ∃ off v rest, s.Serves (.write .word off v) rest ∧ GuardedOffset off)
      ∧ (s.ovr = true → t.ovr = false →
          (∃ v rest, s.Serves (.write .word 0x04 v) rest ∧ v.getLsbD 3 = true) ∨ s.UnderReset)
      ∧ (∀ off v rest, s.Serves (.write .word off v) rest → s.busy = true → GuardedOffset off → t.ovr = true)
      ∧ (∀ v rest, s.Serves (.write .word 0x04 v) rest → v.getLsbD 3 = true → t.ovr = false)

/-- 10_state.md R53 (stated): the fields of STATUS, and what a write to it does, whether BUSY is 0 or 1. -/
def Obligations.StatusReadsItsFieldsAndClearsOvr : Prop :=
  (∀ s : State,
      (s.readReg (Reg.ofOff 0x04)).extractLsb' 0 1 = BitVec.ofBool s.busy
        ∧ (s.readReg (Reg.ofOff 0x04)).extractLsb' 1 1 = BitVec.ofBool s.ctx
        ∧ ((s.readReg (Reg.ofOff 0x04)).getLsbD 2 = true ↔ s.ctx = true ∧ s.ctr.toNat = 2 ^ 64 - 1)
        ∧ (s.readReg (Reg.ofOff 0x04)).extractLsb' 3 1 = BitVec.ofBool s.ovr
        ∧ (s.readReg (Reg.ofOff 0x04)).extractLsb' 4 4 = s.err.code
        ∧ (s.readReg (Reg.ofOff 0x04)).extractLsb' 8 6 = s.dlen
        ∧ (s.readReg (Reg.ofOff 0x04)).extractLsb' 14 18 = 0)
    ∧ ∀ (s : State) (v : Word) (rest : List HostOp), s.Serves (.write .word 0x04 v) rest →
        ∃ wait, step s = .next { s with ovr := if v.getLsbD 3 then false else s.ovr, host := rest, wait := wait }

/-- 20_memory.md R76, R73: a read returns the current value of the register and changes nothing of the block. -/
def Obligations.ReadsHaveNoSideEffect : Prop :=
  ∀ (s : State) (off : BitVec 8) (rest : List HostOp), s.Serves (.read .word off) rest → off.toNat % 4 = 0 →
    ∃ wait, step s = .next { s with
      host := rest, wait := wait, replies := s.replies ++ [s.readReg (Reg.ofOff off)] }

/-- 10_state.md R46 to R48, R63, 20_memory.md R76: an idle block takes a write to a staging register whole; it reads back, every
other offset of the window reads as before, and nothing but that register and the queue changes. -/
def Obligations.StagingWriteReadsBack : Prop :=
  ∀ (s : State) (off : BitVec 8) (v : Word) (rest : List HostOp),
    s.resetIn = false → s.busy = false → s.host = .write .word off v :: rest → StagingOffset off →
    ∃ t, step s = .next t ∧ t.readReg (Reg.ofOff off) = v
      ∧ (∀ off' : BitVec 8, off'.toNat % 4 = 0 → off' ≠ off → t.readReg (Reg.ofOff off') = s.readReg (Reg.ofOff off'))
      ∧ ∃ din kin lo hi wait, t = { s with
          din := din, kin := kin, ctrinLo := lo, ctrinHi := hi, host := rest, wait := wait }

/-- 10_state.md R57 (stated): reserved offsets. -/
def Obligations.ReservedOffsetsReadZeroIgnoreWrites : Prop :=
  ∀ (s : State) (off : BitVec 8) (rest : List HostOp), ReservedOffset off →
    s.readReg (Reg.ofOff off) = 0
      ∧ (s.Serves (.read .word off) rest →
          ∃ wait, step s = .next { s with host := rest, wait := wait, replies := s.replies ++ [0] })
      ∧ ∀ v : Word, s.Serves (.write .word off v) rest →
          ∃ wait, step s = .next { s with host := rest, wait := wait }

/-- 10_state.md R54 to R56: writes to CFG, CTR_LO, CTR_HI and DOUT are ignored, without OVR, whether BUSY is 0 or 1. -/
def Obligations.ReadOnlyRegistersIgnoreWrites : Prop :=
  ∀ (s : State) (off : BitVec 8) (v : Word) (rest : List HostOp),
    s.Serves (.write .word off v) rest → ReadOnlyOffset off →
    ∃ wait, step s = .next { s with host := rest, wait := wait }

/-- 10_state.md R46 to R48, R52, R54 to R56, 20_memory.md R74: what the other offsets of the window read. -/
def Obligations.WindowReadsTheNamedState : Prop :=
  ∀ s : State,
    s.readReg (Reg.ofOff 0x00) = 0
      ∧ s.readReg (Reg.ofOff 0x14) ++ s.readReg (Reg.ofOff 0x10) = s.ctr
      ∧ s.readReg (Reg.ofOff 0x1C) ++ s.readReg (Reg.ofOff 0x18) = s.ctrin
      ∧ (s.ctx = false → s.readReg (Reg.ofOff 0x08) = 0)
      ∧ (s.ctx = true →
          (s.readReg (Reg.ofOff 0x08)).extractLsb' 0 6 = s.outlen
            ∧ (s.readReg (Reg.ofOff 0x08)).extractLsb' 8 6 = s.keylen
            ∧ s.readReg (Reg.ofOff 0x08) &&& 0xFFFFC0C0 = 0)
      ∧ (∀ k : Fin 64,
          (s.readReg (Reg.ofOff (BitVec.ofNat 8 (0x40 + 4 * (k.val / 4))))).extractLsb' (8 * (k.val % 4)) 8 = s.dinb[k])
      ∧ (∀ k : Fin 32,
          (s.readReg (Reg.ofOff (BitVec.ofNat 8 (0x80 + 4 * (k.val / 4))))).extractLsb' (8 * (k.val % 4)) 8 = s.kinb[k])
      ∧ ∀ k : Fin 32,
          (s.readReg (Reg.ofOff (BitVec.ofNat 8 (0xA0 + 4 * (k.val / 4))))).extractLsb' (8 * (k.val % 4)) 8 = s.dout[k]

/-- 20_memory.md R72, R77: an aligned 32-bit access is always served; any other is refused when the Host would make it, and while
a command runs the Engine still completes it. -/
def Obligations.OnlyAlignedWordAccessesAreAdmitted : Prop :=
  ∀ (s : State) (width : Width) (off : BitVec 8) (v : Word) (rest : List HostOp),
    (s.host = .read width off :: rest ∨ s.host = .write width off v :: rest) →
    (width = .word ∧ off.toNat % 4 = 0 → ∃ t, step s = .next t)
      ∧ (¬ (width = .word ∧ off.toNat % 4 = 0) → s.busy = false ∨ s.resetIn = true →
          step s = .refused (.unadmittedAccess width off))
      ∧ (¬ (width = .word ∧ off.toNat % 4 = 0) → s.busy = true → s.resetIn = false → step s = engineStep s)

/-- 30_encoding.md R108: POLL reads STATUS and is over when bit 0 read 0. -/
def Obligations.PollRepeatsWhileBusy : Prop :=
  ∀ (s : State) (rest : List HostOp), s.Serves .poll rest →
    ∃ wait, step s = .next { s with
      host := if s.busy then .poll :: rest else rest
      wait := wait
      replies := s.replies ++ [s.readReg (Reg.ofOff 0x04)] }

/-- 10_state.md R64, 60_exceptions.md R240: two states that differ only in H, BUF and SKEY answer every step alike up to H, BUF
and SKEY, unless the step completes FINAL or FINAL_RESET: the hidden state reaches the Host through a digest only. -/
def Obligations.HiddenStateReachesHostOnlyByDigest : Prop :=
  ∀ s s' t : State, s.public = s'.public → ¬ s.Completes .final → ¬ s.Completes .finalReset →
    step s = .next t → ∃ t', step s' = .next t' ∧ t.public = t'.public ∧ ∀ r : Reg, t.readReg r = t'.readReg r

/-! ## Whole-machine rules -/

/-- 10_state.md R43 (stated): BUSY rises only by a write to CMD while BUSY = 0, falls only at a completion (or at hardware
reset, 60_exceptions.md R238), and always falls there. -/
def Obligations.BusyFromAcceptanceToCompletion : Prop :=
  ∀ s t : State, step s = .next t →
    (s.busy = false → t.busy = true → ∃ v rest, s.Serves (.write .word 0x00 v) rest)
      ∧ (s.busy = false → (∃ v rest, s.Serves (.write .word 0x00 v) rest) → t.busy = true)
      ∧ (s.busy = true → t.busy = false → s.engineTurn = true ∨ s.UnderReset)
      ∧ (s.engineTurn = true → s.busy = true ∧ t.busy = false)

/-- 10_state.md R44: ERR is written by completions and by hardware reset only. -/
def Obligations.ErrWrittenOnlyByCompletion : Prop :=
  ∀ s t : State, step s = .next t → t.err ≠ s.err → s.engineTurn = true ∨ s.UnderReset

/-- 10_state.md R39, 70_reset_and_hazards.md R250: CTX rises only by a successful INIT and falls only at hardware reset. -/
def Obligations.ContextFromInitToHardwareReset : Prop :=
  ∀ s t : State, step s = .next t →
    (s.ctx = false → t.ctx = true → t.err = .success ∧ ∃ outlen keylen, s.Completes (.init outlen keylen))
      ∧ (s.ctx = true → t.ctx = false → s.UnderReset)

/-- 10_state.md R40, R58: a context becomes poisoned only by a successful FINAL, and stops being poisoned only by INIT or RESET (or
hardware reset): counting never reaches the sentinel. -/
def Obligations.PoisonedOnlyByFinal : Prop :=
  ∀ s t : State, step s = .next t →
    (s.fin = false → t.fin = true → s.Completes .final ∧ t.err = .success)
      ∧ (s.fin = true → t.fin = false →
          (∃ outlen keylen, s.Completes (.init outlen keylen)) ∨ s.Completes .reset ∨ s.UnderReset)

/-- 43_output_truncator.md R210 (stated): what may change DOUT and DLEN. -/
def Obligations.OutputPersists : Prop :=
  ∀ s t : State, step s = .next t → (t.dout ≠ s.dout ∨ t.dlen ≠ s.dlen) →
    (t.err = .success
        ∧ ((∃ outlen keylen, s.Completes (.init outlen keylen)) ∨ s.Completes .final ∨ s.Completes .finalReset
          ∨ ∃ last, s.Completes (.compress last)))
      ∨ s.UnderReset

/-- 42_key_expand_block.md R198 (stated): SKEY, KEYLEN and OUTLEN are written only by a successful INIT (or hardware reset),
and a later change of KIN has no effect on the context or its digests. -/
def Obligations.KeyWrittenOnlyByInit : Prop :=
  (∀ s t : State, step s = .next t → (t.skey ≠ s.skey ∨ t.keylen ≠ s.keylen ∨ t.outlen ≠ s.outlen) →
      (t.err = .success ∧ ∃ outlen keylen, s.Completes (.init outlen keylen)) ∨ s.UnderReset)
    ∧ ∀ (s t : State) (i : Instr) (kin : Vector Word 8),
        ((∃ n, i = .update n) ∨ i = .final ∨ i = .finalReset ∨ i = .reset) → exec i s = .next t →
        exec i { s with kin := kin } = .next { t with kin := kin }

/-- 70_reset_and_hazards.md R254, 60_exceptions.md R226, R229: no command writes a staging register, OVR, PEND or anything of the
outside world. -/
def Obligations.CommandsLeaveStagingAlone : Prop :=
  ∀ (i : Instr) (s t : State), exec i s = .next t →
    t.din = s.din ∧ t.kin = s.kin ∧ t.ctrinLo = s.ctrinLo ∧ t.ctrinHi = s.ctrinHi ∧ t.ovr = s.ovr
      ∧ t.pend = s.pend ∧ t.busy = s.busy ∧ t.resetIn = s.resetIn ∧ t.host = s.host ∧ t.replies = s.replies ∧ t.wait = s.wait
      ∧ t.latencies = s.latencies ∧ t.accepted = s.accepted

/-- 10_state.md R33 to R42, R51: the registers of the window a command may change. Every other aligned offset reads as before
the command: RESET and UPDATE change STATUS and CTR only, COMPRESS changes STATUS and DOUT only, FINAL and FINAL_RESET
change STATUS, CTR and DOUT, INIT those and CFG. -/
def Obligations.CommandsChangeOnlyTheseRegisters : Prop :=
  ∀ (i : Instr) (s t : State) (off : BitVec 8), exec i s = .next t → off.toNat % 4 = 0 → off ≠ 0x04 →
    (off = 0x08 → ∀ outlen keylen, i ≠ .init outlen keylen) →
    (off = 0x10 ∨ off = 0x14 → ∃ last, i = .compress last) →
    (0xA0 ≤ off.toNat ∧ off.toNat ≤ 0xBC → (∃ n, i = .update n) ∨ i = .reset) →
    t.readReg (Reg.ofOff off) = s.readReg (Reg.ofOff off)

/-! ## Errors -/

/-- 60_exceptions.md R226 (stated): a command that raises an error changes ERR and BUSY and nothing else. -/
def Obligations.ErrorChangesNothingElse : Prop :=
  ∀ s t : State, s.engineTurn = true → step s = .next t → t.err ≠ .success →
    t = { s with err := t.err, busy := false }

/-- 60_exceptions.md R221 (stated): the errors each command word can complete with, by its opcode. -/
def Obligations.ErrorsEachCommandCanRaise : Prop :=
  ∀ s t : State, s.engineTurn = true → step s = .next t →
    (s.pend.extractLsb' 0 4 = 1 →
        t.err = .success ∨ t.err = .invalidOutputLength ∨ t.err = .invalidKeyLength ∨ t.err = .invalidCommand)
      ∧ (s.pend.extractLsb' 0 4 = 2 →
          t.err = .success ∨ t.err = .useAfterFinalize ∨ t.err = .noContext ∨ t.err = .invalidCommand
            ∨ t.err = .counterOverflow)
      ∧ (s.pend.extractLsb' 0 4 = 3 ∨ s.pend.extractLsb' 0 4 = 4 →
          t.err = .success ∨ t.err = .useAfterFinalize ∨ t.err = .noContext ∨ t.err = .invalidCommand)
      ∧ (s.pend.extractLsb' 0 4 = 5 → t.err = .success ∨ t.err = .noContext ∨ t.err = .invalidCommand)
      ∧ (s.pend.extractLsb' 0 4 = 6 → t.err = .success ∨ t.err = .invalidCommand)
      ∧ (s.pend.extractLsb' 0 4 = 0 ∨ 7 ≤ (s.pend.extractLsb' 0 4).toNat → t.err = .invalidCommand)

/-- 41_streaming_state_manager.md R157 (stated), 30_encoding.md R99, 60_exceptions.md R227: the construction errors, OUTLEN first,
leave the context, DOUT and DLEN as they were. -/
def Obligations.InitRejectsLengthsOutOfRange : Prop :=
  ∀ (s : State) (outlen keylen : BitVec 6),
    (outlen.toNat = 0 ∨ 32 < outlen.toNat → exec (.init outlen keylen) s = .next { s with err := .invalidOutputLength })
      ∧ (1 ≤ outlen.toNat → outlen.toNat ≤ 32 → 32 < keylen.toNat →
          exec (.init outlen keylen) s = .next { s with err := .invalidKeyLength })

/-- 60_exceptions.md R223 (stated): the four commands that need a context, without one. -/
def Obligations.NoContextIsReported : Prop :=
  ∀ (s : State) (i : Instr), s.ctx = false → i.wellFormed = true →
    ((∃ n, i = .update n) ∨ i = .final ∨ i = .finalReset ∨ i = .reset) →
    exec i s = .next { s with err := .noContext }

/-- 60_exceptions.md R224 (stated): the three commands a poisoned context refuses, UPDATE of no bytes included, and the three
that never raise the error. -/
def Obligations.UseAfterFinalizeIsReported : Prop :=
  (∀ (s : State) (i : Instr), s.ctx = true → s.ctr.toNat = 2 ^ 64 - 1 → i.wellFormed = true →
      ((∃ n, i = .update n) ∨ i = .final ∨ i = .finalReset) → exec i s = .next { s with err := .useAfterFinalize })
    ∧ ∀ (s t : State) (i : Instr), (i = .reset ∨ (∃ outlen keylen, i = .init outlen keylen) ∨ ∃ last, i = .compress last) →
        exec i s = .next t → t.err ≠ .useAfterFinalize

/-- 60_exceptions.md R225 (stated): the exact sum decides, and it needs a counter of at least 2^64 − 65. -/
def Obligations.CounterOverflowIsReported : Prop :=
  ∀ (s : State) (n : BitVec 7), s.ctx = true → s.ctr.toNat ≠ 2 ^ 64 - 1 → n.toNat ≤ 64 →
    (2 ^ 64 - 1 ≤ s.ctr.toNat + n.toNat → exec (.update n) s = .next { s with err := .counterOverflow })
      ∧ ∀ t, exec (.update n) s = .next t → t.err = .counterOverflow → 2 ^ 64 - 65 ≤ s.ctr.toNat

/-! ## The commands -/

/-- 41_streaming_state_manager.md R155, 42_key_expand_block.md R190, R192, R194: INIT completes with a fresh context. Everything the
record does not name is unchanged. -/
def Obligations.InitBuildsTheContext : Prop :=
  ∀ (s : State) (outlen keylen : BitVec 6), 1 ≤ outlen.toNat → outlen.toNat ≤ 32 → keylen.toNat ≤ 32 →
    ∃ (h : Vector Word 8) (buf : Vector Byte 64) (skey : Vector Byte 32),
      exec (.init outlen keylen) s = .next { s with
          outlen := outlen, keylen := keylen, skey := skey, ctx := true, dout := Vector.replicate 32 0, dlen := 0
          h := h, buf := buf, ctr := if keylen = 0 then 0 else 64, err := .success }
        ∧ h[0] = 0x6A09E667 ^^^ 0x01010000 ^^^ BitVec.ofNat 32 outlen.toNat ^^^ BitVec.ofNat 32 (keylen.toNat * 256)
        ∧ (∀ i : Fin 8, i.val ≠ 0 → h[i] = iv[i])
        ∧ (∀ i : Fin 32, skey[i] = if i.val < keylen.toNat then s.kinb[i] else 0)
        ∧ ∀ i : Fin 64, buf[i] = if i.val < keylen.toNat then s.kinb.toList.getD i.val 0 else 0

/-- 41_streaming_state_manager.md R156 (stated): a successful INIT replaces the context in full: the new context depends on the
command and the key in KIN alone. -/
def Obligations.InitReplacesTheContextInFull : Prop :=
  ∀ (s s' : State) (outlen keylen : BitVec 6), 1 ≤ outlen.toNat → outlen.toNat ≤ 32 → keylen.toNat ≤ 32 → s.kin = s'.kin →
    ∃ t t', exec (.init outlen keylen) s = .next t ∧ exec (.init outlen keylen) s' = .next t' ∧ SameContext t t'
      ∧ t.fin = false

/-- 41_streaming_state_manager.md R160, R162, R163: an UPDATE whose bytes fit in the rest of the buffer completes without a
compression, its bytes in order behind the unconsumed ones. -/
def Obligations.UpdateWithinTheBlockOnlyBuffers : Prop :=
  ∀ (s : State) (n : BitVec 7), s.ctx = true → s.ctr.toNat + n.toNat < 2 ^ 64 - 1 → n.toNat ≤ 64 →
    occ s.ctr + n.toNat ≤ 64 →
    ∃ buf : Vector Byte 64,
      exec (.update n) s = .next { s with buf := buf, ctr := s.ctr + BitVec.ofNat 64 n.toNat, err := .success }
        ∧ ∀ i : Fin 64, buf[i] =
            if occ s.ctr ≤ i.val ∧ i.val < occ s.ctr + n.toNat then s.dinb.toList.getD (i.val - occ s.ctr) 0 else s.buf[i]

/-- 41_streaming_state_manager.md R160, R162, R164: an UPDATE whose bytes do not fit completes with exactly one compression, of the
topped-up block with the bytes counted through its end and last = false, and the rest of the bytes from BUF[0] on. -/
def Obligations.UpdateAcrossTheBlockCompressesOnce : Prop :=
  ∀ (s : State) (n : BitVec 7), s.ctx = true → s.ctr.toNat + n.toNat < 2 ^ 64 - 1 → n.toNat ≤ 64 →
    64 < occ s.ctr + n.toNat →
    ∃ buf block : Vector Byte 64,
      exec (.update n) s = .next { s with
          h := compressF s.h block (BitVec.ofNat 64 (s.ctr.toNat + (64 - occ s.ctr))) false
          buf := buf, ctr := s.ctr + BitVec.ofNat 64 n.toNat, err := .success }
        ∧ (∀ i : Fin 64, block[i] = if i.val < occ s.ctr then s.buf[i] else s.dinb.toList.getD (i.val - occ s.ctr) 0)
        ∧ ∀ i : Fin 64, buf[i] =
            if i.val + 64 < occ s.ctr + n.toNat then s.dinb.toList.getD (i.val + 64 - occ s.ctr) 0 else block[i]

/-- 41_streaming_state_manager.md R165 (stated): an UPDATE of no bytes on a live context changes ERR only. -/
def Obligations.EmptyUpdateIsNoOp : Prop :=
  ∀ s : State, s.ctx = true → s.ctr.toNat ≠ 2 ^ 64 - 1 → exec (.update 0) s = .next { s with err := .success }

/-- 41_streaming_state_manager.md R163: after an UPDATE of at least one byte the last byte of the stream is buffered, not
compressed. -/
def Obligations.LastByteStaysBuffered : Prop :=
  ∀ (s : State) (n : BitVec 7), s.ctx = true → s.ctr.toNat + n.toNat < 2 ^ 64 - 1 → 1 ≤ n.toNat → n.toNat ≤ 64 →
    ∃ t, exec (.update n) s = .next t ∧ 1 ≤ occ t.ctr
      ∧ t.buf.toList.getD (occ t.ctr - 1) 0 = s.dinb.toList.getD (n.toNat - 1) 0

/-- 41_streaming_state_manager.md R168 to R170, 43_output_truncator.md R205, R208: FINAL completes with the padded last block
compressed with last = true, the truncated digest in DOUT, and the context poisoned. -/
def Obligations.FinalWritesTheDigestAndPoisons : Prop :=
  ∀ s : State, s.ctx = true → s.ctr.toNat ≠ 2 ^ 64 - 1 →
    ∃ (buf : Vector Byte 64) (dout : Vector Byte 32),
      exec .final s = .next { s with
          h := compressF s.h buf s.ctr true, buf := buf, dout := dout, dlen := s.outlen
          ctr := BitVec.ofNat 64 (2 ^ 64 - 1), err := .success }
        ∧ (∀ i : Fin 64, buf[i] = if i.val < occ s.ctr then s.buf[i] else 0)
        ∧ ∀ k : Fin 32, dout[k] =
            if k.val < s.outlen.toNat then
              ((compressF s.h buf s.ctr true)[k.val / 4]).extractLsb' (8 * (k.val % 4)) 8
            else 0

/-- 41_streaming_state_manager.md R174: FINAL_RESET completes as FINAL immediately followed by RESET. -/
def Obligations.FinalResetIsFinalThenReset : Prop :=
  ∀ s : State, s.ctx = true → s.ctr.toNat ≠ 2 ^ 64 - 1 →
    ∃ u t, exec .final s = .next u ∧ exec .reset u = .next t ∧ exec .finalReset s = .next t ∧ t.dout = u.dout
      ∧ t.dlen = s.outlen

/-- 41_streaming_state_manager.md R178, 42_key_expand_block.md R194, R197: RESET completes on every context, poisoned or not, with
the context re-seeded and the saved key re-applied; DOUT, DLEN and everything else are unchanged. -/
def Obligations.ResetReseedsTheContext : Prop :=
  ∀ s : State, s.ctx = true →
    ∃ (h : Vector Word 8) (buf : Vector Byte 64),
      exec .reset s = .next { s with h := h, buf := buf, ctr := if s.keylen = 0 then 0 else 64, err := .success }
        ∧ h[0] = 0x6A09E667 ^^^ 0x01010000 ^^^ BitVec.ofNat 32 s.outlen.toNat ^^^ BitVec.ofNat 32 (s.keylen.toNat * 256)
        ∧ (∀ i : Fin 8, i.val ≠ 0 → h[i] = iv[i])
        ∧ ∀ i : Fin 64, buf[i] = if i.val < s.keylen.toNat then s.skey.toList.getD i.val 0 else 0

/-- 40_compression_engine.md R133: COMPRESS completes in every state with the serialized F of KIN, DIN and CTRIN in DOUT; the
context is neither read nor written. -/
def Obligations.CompressOutputsF : Prop :=
  ∀ (s : State) (last : Bool), ∃ dout : Vector Byte 32,
    exec (.compress last) s = .next { s with dout := dout, dlen := 32, err := .success }
      ∧ ∀ k : Fin 32, dout[k] =
          ((compressF s.kin s.dinb (s.ctrinHi ++ s.ctrinLo) last)[k.val / 4]).extractLsb' (8 * (k.val % 4)) 8

/-! ## F -/

/-- 42_key_expand_block.md R190, R191: the parameter word's bytes, and its OR form is the XOR form. -/
def Obligations.ParameterWordLayout : Prop :=
  ∀ outlen keylen : BitVec 6,
    (paramWord outlen keylen).extractLsb' 0 8 = outlen.setWidth 8
      ∧ (paramWord outlen keylen).extractLsb' 8 8 = keylen.setWidth 8
      ∧ (paramWord outlen keylen).extractLsb' 16 8 = 1 ∧ (paramWord outlen keylen).extractLsb' 24 8 = 1
      ∧ paramWord outlen keylen = 0x01010000 ^^^ outlen.setWidth 32 ^^^ keylen.setWidth 32 <<< 8

/-- 40_compression_engine.md R126 to R128: the working vector; the counter enters V[12] and V[13] only, the flag V[14] only. -/
def Obligations.CounterAndFlagEnterTheirWordsOnly : Prop :=
  ∀ (h : Vector Word 8) (t : Counter) (last : Bool),
    (∀ i : Fin 8, (workingVector h t last)[i.val] = h[i])
      ∧ (∀ i : Fin 8, i.val < 4 ∨ i.val = 7 → (workingVector h t last)[i.val + 8] = iv[i])
      ∧ (workingVector h t last)[12] = iv[4] ^^^ t.extractLsb' 0 32
      ∧ (workingVector h t last)[13] = iv[5] ^^^ t.extractLsb' 32 32
      ∧ (workingVector h t last)[14] = if last then iv[6] ^^^ 0xFFFFFFFF else iv[6]

/-- 40_compression_engine.md R124: mixing operations on disjoint words commute, so the order of the four column steps, and of the
four diagonal steps, does not change the result. -/
def Obligations.DisjointMixingsCommute : Prop :=
  ∀ (a b c d a' b' c' d' : Fin 16) (x y x' y' : Word) (v : Vector Word 16),
    (∀ i ∈ [a, b, c, d], i ∉ [a', b', c', d']) →
    mixG a b c d x y (mixG a' b' c' d' x' y' v) = mixG a' b' c' d' x' y' (mixG a b c d x y v)

/-- 40_compression_engine.md R132: one round on four lanes is ROUND(r). -/
def Obligations.FourLaneRoundIsTheRound : Prop :=
  ∀ (m v : Vector Word 16) (r : Fin 10), (laneRound m (Rows.ofVector v) r).toVector = mixRound m v r

/-- 40_compression_engine.md R131, R132: the four-lane datapath computes F for every state, block, counter and flag. -/
def Obligations.FourLaneDatapathComputesF : Prop :=
  ∀ (h : Vector Word 8) (block : Vector Byte 64) (t : Counter) (last : Bool),
    laneF h block t last = compressF h block t last

/-! ## Streams and digests -/

/-- 41_streaming_state_manager.md R166 (stated): the context after a sequence of UPDATE commands, and every later digest, depends only
on the concatenation of their data. -/
def Obligations.StreamSplitDoesNotMatter : Prop :=
  ∀ (s : State) (a b : List Chunk), s.ctx = true → (∀ c ∈ a, c.2.toNat ≤ 64) → (∀ c ∈ b, c.2.toNat ≤ 64) →
    streamBytes a = streamBytes b → s.ctr.toNat + (streamBytes a).length < 2 ^ 64 - 1 →
    ∃ t u t' u', feed a s = .next t ∧ feed b s = .next u ∧ SameContext t u
      ∧ exec .final t = .next t' ∧ exec .final u = .next u' ∧ t'.dout = u'.dout ∧ t'.dlen = u'.dlen

/-- 41_streaming_state_manager.md R179 (stated): FINAL_RESET, and FINAL then RESET, return a context that absorbed a stream to the
state right after its INIT, and re-hashing the same input gives the digest of a fresh context, the key still applied. -/
def Obligations.ResetReturnsToTheFreshContext : Prop :=
  ∀ (s : State) (outlen keylen : BitVec 6) (absorbed input : List Chunk),
    1 ≤ outlen.toNat → outlen.toNat ≤ 32 → keylen.toNat ≤ 32 → (∀ c ∈ absorbed, c.2.toNat ≤ 64) →
    (∀ c ∈ input, c.2.toNat ≤ 64) → 64 + (streamBytes absorbed).length < 2 ^ 64 - 1 →
    64 + (streamBytes input).length < 2 ^ 64 - 1 →
    ∃ fresh live once poisoned twice, exec (.init outlen keylen) s = .next fresh ∧ feed absorbed fresh = .next live
      ∧ exec .finalReset live = .next once ∧ exec .final live = .next poisoned ∧ exec .reset poisoned = .next twice
      ∧ SameContext once fresh ∧ SameContext twice fresh
      ∧ ∃ x y z x' y' z', feed input fresh = .next x ∧ exec .final x = .next x'
        ∧ feed input once = .next y ∧ exec .final y = .next y' ∧ x'.dout = y'.dout ∧ x'.dlen = y'.dlen
        ∧ feed input twice = .next z ∧ exec .final z = .next z' ∧ x'.dout = z'.dout ∧ x'.dlen = z'.dlen

/-- 00_scope.md R1, R110, R111 of 30_encoding.md, 41_streaming_state_manager.md R171 to R173, 43_output_truncator.md R206: INIT, any
UPDATEs and FINAL leave in DOUT the BLAKE2s digest of the key in KIN and the bytes sent, OUTLEN bytes of it. -/
def Obligations.StreamingComputesBlake2s : Prop :=
  ∀ (s : State) (outlen keylen : BitVec 6) (chunks : List Chunk),
    1 ≤ outlen.toNat → outlen.toNat ≤ 32 → keylen.toNat ≤ 32 → (∀ c ∈ chunks, c.2.toNat ≤ 64) →
    64 + (streamBytes chunks).length < 2 ^ 64 - 1 →
    ∃ fresh live done, exec (.init outlen keylen) s = .next fresh ∧ feed chunks fresh = .next live
      ∧ exec .final live = .next done ∧ done.dlen = outlen
      ∧ done.dout.toList =
          blake2s outlen keylen (s.kinb.toList.take keylen.toNat) (streamBytes chunks)
            ++ List.replicate (32 - outlen.toNat) 0
end

