-- ==== Sys2Proof/Laws/State.lean ====
section
/-! SUPPORT. For every named update of State, what each field is after it, so that no later proof unfolds the update. -/

namespace Sys2Proof.Machine

variable (s : State)

/-! ## `State.withErr` -/

@[simp] theorem State.withErr_h (e : ErrCode) : (s.withErr e).h = s.h := rfl
@[simp] theorem State.withErr_buf (e : ErrCode) : (s.withErr e).buf = s.buf := rfl
@[simp] theorem State.withErr_ctr (e : ErrCode) : (s.withErr e).ctr = s.ctr := rfl
@[simp] theorem State.withErr_outlen (e : ErrCode) : (s.withErr e).outlen = s.outlen := rfl
@[simp] theorem State.withErr_keylen (e : ErrCode) : (s.withErr e).keylen = s.keylen := rfl
@[simp] theorem State.withErr_skey (e : ErrCode) : (s.withErr e).skey = s.skey := rfl
@[simp] theorem State.withErr_ctx (e : ErrCode) : (s.withErr e).ctx = s.ctx := rfl
@[simp] theorem State.withErr_dout (e : ErrCode) : (s.withErr e).dout = s.dout := rfl
@[simp] theorem State.withErr_dlen (e : ErrCode) : (s.withErr e).dlen = s.dlen := rfl
@[simp] theorem State.withErr_busy (e : ErrCode) : (s.withErr e).busy = s.busy := rfl
@[simp] theorem State.withErr_err (e : ErrCode) : (s.withErr e).err = e := rfl
@[simp] theorem State.withErr_ovr (e : ErrCode) : (s.withErr e).ovr = s.ovr := rfl
@[simp] theorem State.withErr_pend (e : ErrCode) : (s.withErr e).pend = s.pend := rfl
@[simp] theorem State.withErr_din (e : ErrCode) : (s.withErr e).din = s.din := rfl
@[simp] theorem State.withErr_kin (e : ErrCode) : (s.withErr e).kin = s.kin := rfl
@[simp] theorem State.withErr_ctrinLo (e : ErrCode) : (s.withErr e).ctrinLo = s.ctrinLo := rfl
@[simp] theorem State.withErr_ctrinHi (e : ErrCode) : (s.withErr e).ctrinHi = s.ctrinHi := rfl
@[simp] theorem State.withErr_resetIn (e : ErrCode) : (s.withErr e).resetIn = s.resetIn := rfl
@[simp] theorem State.withErr_host (e : ErrCode) : (s.withErr e).host = s.host := rfl
@[simp] theorem State.withErr_replies (e : ErrCode) : (s.withErr e).replies = s.replies := rfl
@[simp] theorem State.withErr_wait (e : ErrCode) : (s.withErr e).wait = s.wait := rfl
@[simp] theorem State.withErr_latencies (e : ErrCode) : (s.withErr e).latencies = s.latencies := rfl
@[simp] theorem State.withErr_accepted (e : ErrCode) : (s.withErr e).accepted = s.accepted := rfl

/-! ## `State.complete` -/

@[simp] theorem State.complete_h : (s.complete).h = s.h := rfl
@[simp] theorem State.complete_buf : (s.complete).buf = s.buf := rfl
@[simp] theorem State.complete_ctr : (s.complete).ctr = s.ctr := rfl
@[simp] theorem State.complete_outlen : (s.complete).outlen = s.outlen := rfl
@[simp] theorem State.complete_keylen : (s.complete).keylen = s.keylen := rfl
@[simp] theorem State.complete_skey : (s.complete).skey = s.skey := rfl
@[simp] theorem State.complete_ctx : (s.complete).ctx = s.ctx := rfl
@[simp] theorem State.complete_dout : (s.complete).dout = s.dout := rfl
@[simp] theorem State.complete_dlen : (s.complete).dlen = s.dlen := rfl
@[simp] theorem State.complete_busy : (s.complete).busy = false := rfl
@[simp] theorem State.complete_err : (s.complete).err = s.err := rfl
@[simp] theorem State.complete_ovr : (s.complete).ovr = s.ovr := rfl
@[simp] theorem State.complete_pend : (s.complete).pend = s.pend := rfl
@[simp] theorem State.complete_din : (s.complete).din = s.din := rfl
@[simp] theorem State.complete_kin : (s.complete).kin = s.kin := rfl
@[simp] theorem State.complete_ctrinLo : (s.complete).ctrinLo = s.ctrinLo := rfl
@[simp] theorem State.complete_ctrinHi : (s.complete).ctrinHi = s.ctrinHi := rfl
@[simp] theorem State.complete_resetIn : (s.complete).resetIn = s.resetIn := rfl
@[simp] theorem State.complete_host : (s.complete).host = s.host := rfl
@[simp] theorem State.complete_replies : (s.complete).replies = s.replies := rfl
@[simp] theorem State.complete_wait : (s.complete).wait = s.wait := rfl
@[simp] theorem State.complete_latencies : (s.complete).latencies = s.latencies := rfl
@[simp] theorem State.complete_accepted : (s.complete).accepted = s.accepted := rfl

/-! ## `State.accept` -/

@[simp] theorem State.accept_h (w : Word) : (s.accept w).h = s.h := rfl
@[simp] theorem State.accept_buf (w : Word) : (s.accept w).buf = s.buf := rfl
@[simp] theorem State.accept_ctr (w : Word) : (s.accept w).ctr = s.ctr := rfl
@[simp] theorem State.accept_outlen (w : Word) : (s.accept w).outlen = s.outlen := rfl
@[simp] theorem State.accept_keylen (w : Word) : (s.accept w).keylen = s.keylen := rfl
@[simp] theorem State.accept_skey (w : Word) : (s.accept w).skey = s.skey := rfl
@[simp] theorem State.accept_ctx (w : Word) : (s.accept w).ctx = s.ctx := rfl
@[simp] theorem State.accept_dout (w : Word) : (s.accept w).dout = s.dout := rfl
@[simp] theorem State.accept_dlen (w : Word) : (s.accept w).dlen = s.dlen := rfl
@[simp] theorem State.accept_busy (w : Word) : (s.accept w).busy = true := rfl
@[simp] theorem State.accept_err (w : Word) : (s.accept w).err = s.err := rfl
@[simp] theorem State.accept_ovr (w : Word) : (s.accept w).ovr = s.ovr := rfl
@[simp] theorem State.accept_pend (w : Word) : (s.accept w).pend = w := rfl
@[simp] theorem State.accept_din (w : Word) : (s.accept w).din = s.din := rfl
@[simp] theorem State.accept_kin (w : Word) : (s.accept w).kin = s.kin := rfl
@[simp] theorem State.accept_ctrinLo (w : Word) : (s.accept w).ctrinLo = s.ctrinLo := rfl
@[simp] theorem State.accept_ctrinHi (w : Word) : (s.accept w).ctrinHi = s.ctrinHi := rfl
@[simp] theorem State.accept_resetIn (w : Word) : (s.accept w).resetIn = s.resetIn := rfl
@[simp] theorem State.accept_host (w : Word) : (s.accept w).host = s.host := rfl
@[simp] theorem State.accept_replies (w : Word) : (s.accept w).replies = s.replies := rfl
@[simp] theorem State.accept_wait (w : Word) : (s.accept w).wait = s.nextLatency := rfl
@[simp] theorem State.accept_latencies (w : Word) : (s.accept w).latencies = s.latencies.tail := rfl
@[simp] theorem State.accept_accepted (w : Word) : (s.accept w).accepted = s.accepted + 1 := rfl

/-! ## `State.seed` -/

@[simp] theorem State.seed_h : (s.seed).h = initialChaining s.outlen s.keylen := rfl
@[simp] theorem State.seed_buf : (s.seed).buf = keyBlock s.keylen s.skey := rfl
@[simp] theorem State.seed_ctr : (s.seed).ctr = if 0 < s.keylen.toNat then 64 else 0 := rfl
@[simp] theorem State.seed_outlen : (s.seed).outlen = s.outlen := rfl
@[simp] theorem State.seed_keylen : (s.seed).keylen = s.keylen := rfl
@[simp] theorem State.seed_skey : (s.seed).skey = s.skey := rfl
@[simp] theorem State.seed_ctx : (s.seed).ctx = s.ctx := rfl
@[simp] theorem State.seed_dout : (s.seed).dout = s.dout := rfl
@[simp] theorem State.seed_dlen : (s.seed).dlen = s.dlen := rfl
@[simp] theorem State.seed_busy : (s.seed).busy = s.busy := rfl
@[simp] theorem State.seed_err : (s.seed).err = s.err := rfl
@[simp] theorem State.seed_ovr : (s.seed).ovr = s.ovr := rfl
@[simp] theorem State.seed_pend : (s.seed).pend = s.pend := rfl
@[simp] theorem State.seed_din : (s.seed).din = s.din := rfl
@[simp] theorem State.seed_kin : (s.seed).kin = s.kin := rfl
@[simp] theorem State.seed_ctrinLo : (s.seed).ctrinLo = s.ctrinLo := rfl
@[simp] theorem State.seed_ctrinHi : (s.seed).ctrinHi = s.ctrinHi := rfl
@[simp] theorem State.seed_resetIn : (s.seed).resetIn = s.resetIn := rfl
@[simp] theorem State.seed_host : (s.seed).host = s.host := rfl
@[simp] theorem State.seed_replies : (s.seed).replies = s.replies := rfl
@[simp] theorem State.seed_wait : (s.seed).wait = s.wait := rfl
@[simp] theorem State.seed_latencies : (s.seed).latencies = s.latencies := rfl
@[simp] theorem State.seed_accepted : (s.seed).accepted = s.accepted := rfl

/-! ## `State.flushFull` -/

@[simp] theorem State.flushFull_buf : (s.flushFull).buf = s.buf := by unfold State.flushFull; split <;> rfl
@[simp] theorem State.flushFull_ctr : (s.flushFull).ctr = s.ctr := by unfold State.flushFull; split <;> rfl
@[simp] theorem State.flushFull_outlen : (s.flushFull).outlen = s.outlen := by unfold State.flushFull; split <;> rfl
@[simp] theorem State.flushFull_keylen : (s.flushFull).keylen = s.keylen := by unfold State.flushFull; split <;> rfl
@[simp] theorem State.flushFull_skey : (s.flushFull).skey = s.skey := by unfold State.flushFull; split <;> rfl
@[simp] theorem State.flushFull_ctx : (s.flushFull).ctx = s.ctx := by unfold State.flushFull; split <;> rfl
@[simp] theorem State.flushFull_dout : (s.flushFull).dout = s.dout := by unfold State.flushFull; split <;> rfl
@[simp] theorem State.flushFull_dlen : (s.flushFull).dlen = s.dlen := by unfold State.flushFull; split <;> rfl
@[simp] theorem State.flushFull_busy : (s.flushFull).busy = s.busy := by unfold State.flushFull; split <;> rfl
@[simp] theorem State.flushFull_err : (s.flushFull).err = s.err := by unfold State.flushFull; split <;> rfl
@[simp] theorem State.flushFull_ovr : (s.flushFull).ovr = s.ovr := by unfold State.flushFull; split <;> rfl
@[simp] theorem State.flushFull_pend : (s.flushFull).pend = s.pend := by unfold State.flushFull; split <;> rfl
@[simp] theorem State.flushFull_din : (s.flushFull).din = s.din := by unfold State.flushFull; split <;> rfl
@[simp] theorem State.flushFull_kin : (s.flushFull).kin = s.kin := by unfold State.flushFull; split <;> rfl
@[simp] theorem State.flushFull_ctrinLo : (s.flushFull).ctrinLo = s.ctrinLo := by unfold State.flushFull; split <;> rfl
@[simp] theorem State.flushFull_ctrinHi : (s.flushFull).ctrinHi = s.ctrinHi := by unfold State.flushFull; split <;> rfl
@[simp] theorem State.flushFull_resetIn : (s.flushFull).resetIn = s.resetIn := by unfold State.flushFull; split <;> rfl
@[simp] theorem State.flushFull_host : (s.flushFull).host = s.host := by unfold State.flushFull; split <;> rfl
@[simp] theorem State.flushFull_replies : (s.flushFull).replies = s.replies := by unfold State.flushFull; split <;> rfl
@[simp] theorem State.flushFull_wait : (s.flushFull).wait = s.wait := by unfold State.flushFull; split <;> rfl
@[simp] theorem State.flushFull_latencies : (s.flushFull).latencies = s.latencies := by unfold State.flushFull; split <;> rfl
@[simp] theorem State.flushFull_accepted : (s.flushFull).accepted = s.accepted := by unfold State.flushFull; split <;> rfl

/-! ## `State.push` -/

@[simp] theorem State.push_h (b : Byte) : (s.push b).h = s.h := rfl
@[simp] theorem State.push_buf (b : Byte) : (s.push b).buf = s.buf.set (s.ctr.toNat % 64) b (Nat.mod_lt _ (by decide)) := rfl
@[simp] theorem State.push_ctr (b : Byte) : (s.push b).ctr = s.ctr + 1 := rfl
@[simp] theorem State.push_outlen (b : Byte) : (s.push b).outlen = s.outlen := rfl
@[simp] theorem State.push_keylen (b : Byte) : (s.push b).keylen = s.keylen := rfl
@[simp] theorem State.push_skey (b : Byte) : (s.push b).skey = s.skey := rfl
@[simp] theorem State.push_ctx (b : Byte) : (s.push b).ctx = s.ctx := rfl
@[simp] theorem State.push_dout (b : Byte) : (s.push b).dout = s.dout := rfl
@[simp] theorem State.push_dlen (b : Byte) : (s.push b).dlen = s.dlen := rfl
@[simp] theorem State.push_busy (b : Byte) : (s.push b).busy = s.busy := rfl
@[simp] theorem State.push_err (b : Byte) : (s.push b).err = s.err := rfl
@[simp] theorem State.push_ovr (b : Byte) : (s.push b).ovr = s.ovr := rfl
@[simp] theorem State.push_pend (b : Byte) : (s.push b).pend = s.pend := rfl
@[simp] theorem State.push_din (b : Byte) : (s.push b).din = s.din := rfl
@[simp] theorem State.push_kin (b : Byte) : (s.push b).kin = s.kin := rfl
@[simp] theorem State.push_ctrinLo (b : Byte) : (s.push b).ctrinLo = s.ctrinLo := rfl
@[simp] theorem State.push_ctrinHi (b : Byte) : (s.push b).ctrinHi = s.ctrinHi := rfl
@[simp] theorem State.push_resetIn (b : Byte) : (s.push b).resetIn = s.resetIn := rfl
@[simp] theorem State.push_host (b : Byte) : (s.push b).host = s.host := rfl
@[simp] theorem State.push_replies (b : Byte) : (s.push b).replies = s.replies := rfl
@[simp] theorem State.push_wait (b : Byte) : (s.push b).wait = s.wait := rfl
@[simp] theorem State.push_latencies (b : Byte) : (s.push b).latencies = s.latencies := rfl
@[simp] theorem State.push_accepted (b : Byte) : (s.push b).accepted = s.accepted := rfl

/-! ## `State.truncateOut` -/

@[simp] theorem State.truncateOut_h : (s.truncateOut).h = s.h := by simp only [State.truncateOut]
@[simp] theorem State.truncateOut_buf : (s.truncateOut).buf = s.buf := by simp only [State.truncateOut]
@[simp] theorem State.truncateOut_ctr : (s.truncateOut).ctr = s.ctr := by simp only [State.truncateOut]
@[simp] theorem State.truncateOut_outlen : (s.truncateOut).outlen = s.outlen := by simp only [State.truncateOut]
@[simp] theorem State.truncateOut_keylen : (s.truncateOut).keylen = s.keylen := by simp only [State.truncateOut]
@[simp] theorem State.truncateOut_skey : (s.truncateOut).skey = s.skey := by simp only [State.truncateOut]
@[simp] theorem State.truncateOut_ctx : (s.truncateOut).ctx = s.ctx := by simp only [State.truncateOut]
@[simp] theorem State.truncateOut_dout : (s.truncateOut).dout = truncateBytes (ser8 s.h) s.outlen.toNat := by simp only [State.truncateOut]
@[simp] theorem State.truncateOut_dlen : (s.truncateOut).dlen = s.outlen := by simp only [State.truncateOut]
@[simp] theorem State.truncateOut_busy : (s.truncateOut).busy = s.busy := by simp only [State.truncateOut]
@[simp] theorem State.truncateOut_err : (s.truncateOut).err = s.err := by simp only [State.truncateOut]
@[simp] theorem State.truncateOut_ovr : (s.truncateOut).ovr = s.ovr := by simp only [State.truncateOut]
@[simp] theorem State.truncateOut_pend : (s.truncateOut).pend = s.pend := by simp only [State.truncateOut]
@[simp] theorem State.truncateOut_din : (s.truncateOut).din = s.din := by simp only [State.truncateOut]
@[simp] theorem State.truncateOut_kin : (s.truncateOut).kin = s.kin := by simp only [State.truncateOut]
@[simp] theorem State.truncateOut_ctrinLo : (s.truncateOut).ctrinLo = s.ctrinLo := by simp only [State.truncateOut]
@[simp] theorem State.truncateOut_ctrinHi : (s.truncateOut).ctrinHi = s.ctrinHi := by simp only [State.truncateOut]
@[simp] theorem State.truncateOut_resetIn : (s.truncateOut).resetIn = s.resetIn := by simp only [State.truncateOut]
@[simp] theorem State.truncateOut_host : (s.truncateOut).host = s.host := by simp only [State.truncateOut]
@[simp] theorem State.truncateOut_replies : (s.truncateOut).replies = s.replies := by simp only [State.truncateOut]
@[simp] theorem State.truncateOut_wait : (s.truncateOut).wait = s.wait := by simp only [State.truncateOut]
@[simp] theorem State.truncateOut_latencies : (s.truncateOut).latencies = s.latencies := by simp only [State.truncateOut]
@[simp] theorem State.truncateOut_accepted : (s.truncateOut).accepted = s.accepted := by simp only [State.truncateOut]

/-! ## `State.lastBlock` -/

@[simp] theorem State.lastBlock_h : (s.lastBlock).h = compressF s.h (padBlock s.buf (occ s.ctr)) s.ctr true := by simp only [State.lastBlock]
@[simp] theorem State.lastBlock_buf : (s.lastBlock).buf = padBlock s.buf (occ s.ctr) := by simp only [State.lastBlock]
@[simp] theorem State.lastBlock_ctr : (s.lastBlock).ctr = s.ctr := by simp only [State.lastBlock]
@[simp] theorem State.lastBlock_outlen : (s.lastBlock).outlen = s.outlen := by simp only [State.lastBlock]
@[simp] theorem State.lastBlock_keylen : (s.lastBlock).keylen = s.keylen := by simp only [State.lastBlock]
@[simp] theorem State.lastBlock_skey : (s.lastBlock).skey = s.skey := by simp only [State.lastBlock]
@[simp] theorem State.lastBlock_ctx : (s.lastBlock).ctx = s.ctx := by simp only [State.lastBlock]
@[simp] theorem State.lastBlock_dout : (s.lastBlock).dout = s.dout := by simp only [State.lastBlock]
@[simp] theorem State.lastBlock_dlen : (s.lastBlock).dlen = s.dlen := by simp only [State.lastBlock]
@[simp] theorem State.lastBlock_busy : (s.lastBlock).busy = s.busy := by simp only [State.lastBlock]
@[simp] theorem State.lastBlock_err : (s.lastBlock).err = s.err := by simp only [State.lastBlock]
@[simp] theorem State.lastBlock_ovr : (s.lastBlock).ovr = s.ovr := by simp only [State.lastBlock]
@[simp] theorem State.lastBlock_pend : (s.lastBlock).pend = s.pend := by simp only [State.lastBlock]
@[simp] theorem State.lastBlock_din : (s.lastBlock).din = s.din := by simp only [State.lastBlock]
@[simp] theorem State.lastBlock_kin : (s.lastBlock).kin = s.kin := by simp only [State.lastBlock]
@[simp] theorem State.lastBlock_ctrinLo : (s.lastBlock).ctrinLo = s.ctrinLo := by simp only [State.lastBlock]
@[simp] theorem State.lastBlock_ctrinHi : (s.lastBlock).ctrinHi = s.ctrinHi := by simp only [State.lastBlock]
@[simp] theorem State.lastBlock_resetIn : (s.lastBlock).resetIn = s.resetIn := by simp only [State.lastBlock]
@[simp] theorem State.lastBlock_host : (s.lastBlock).host = s.host := by simp only [State.lastBlock]
@[simp] theorem State.lastBlock_replies : (s.lastBlock).replies = s.replies := by simp only [State.lastBlock]
@[simp] theorem State.lastBlock_wait : (s.lastBlock).wait = s.wait := by simp only [State.lastBlock]
@[simp] theorem State.lastBlock_latencies : (s.lastBlock).latencies = s.latencies := by simp only [State.lastBlock]
@[simp] theorem State.lastBlock_accepted : (s.lastBlock).accepted = s.accepted := by simp only [State.lastBlock]

/-! ## `State.poison` -/

@[simp] theorem State.poison_h : (s.poison).h = s.h := rfl
@[simp] theorem State.poison_buf : (s.poison).buf = s.buf := rfl
@[simp] theorem State.poison_ctr : (s.poison).ctr = sentinel := rfl
@[simp] theorem State.poison_outlen : (s.poison).outlen = s.outlen := rfl
@[simp] theorem State.poison_keylen : (s.poison).keylen = s.keylen := rfl
@[simp] theorem State.poison_skey : (s.poison).skey = s.skey := rfl
@[simp] theorem State.poison_ctx : (s.poison).ctx = s.ctx := rfl
@[simp] theorem State.poison_dout : (s.poison).dout = s.dout := rfl
@[simp] theorem State.poison_dlen : (s.poison).dlen = s.dlen := rfl
@[simp] theorem State.poison_busy : (s.poison).busy = s.busy := rfl
@[simp] theorem State.poison_err : (s.poison).err = s.err := rfl
@[simp] theorem State.poison_ovr : (s.poison).ovr = s.ovr := rfl
@[simp] theorem State.poison_pend : (s.poison).pend = s.pend := rfl
@[simp] theorem State.poison_din : (s.poison).din = s.din := rfl
@[simp] theorem State.poison_kin : (s.poison).kin = s.kin := rfl
@[simp] theorem State.poison_ctrinLo : (s.poison).ctrinLo = s.ctrinLo := rfl
@[simp] theorem State.poison_ctrinHi : (s.poison).ctrinHi = s.ctrinHi := rfl
@[simp] theorem State.poison_resetIn : (s.poison).resetIn = s.resetIn := rfl
@[simp] theorem State.poison_host : (s.poison).host = s.host := rfl
@[simp] theorem State.poison_replies : (s.poison).replies = s.replies := rfl
@[simp] theorem State.poison_wait : (s.poison).wait = s.wait := rfl
@[simp] theorem State.poison_latencies : (s.poison).latencies = s.latencies := rfl
@[simp] theorem State.poison_accepted : (s.poison).accepted = s.accepted := rfl

/-! ## `State.newContext` -/

@[simp] theorem State.newContext_h (ol kl : BitVec 6) : (s.newContext ol kl).h = s.h := by simp only [State.newContext]
@[simp] theorem State.newContext_buf (ol kl : BitVec 6) : (s.newContext ol kl).buf = s.buf := by simp only [State.newContext]
@[simp] theorem State.newContext_ctr (ol kl : BitVec 6) : (s.newContext ol kl).ctr = s.ctr := by simp only [State.newContext]
@[simp] theorem State.newContext_outlen (ol kl : BitVec 6) : (s.newContext ol kl).outlen = ol := by simp only [State.newContext]
@[simp] theorem State.newContext_keylen (ol kl : BitVec 6) : (s.newContext ol kl).keylen = kl := by simp only [State.newContext]
@[simp] theorem State.newContext_skey (ol kl : BitVec 6) : (s.newContext ol kl).skey = s.keyOperand kl.toNat := by simp only [State.newContext]
@[simp] theorem State.newContext_ctx (ol kl : BitVec 6) : (s.newContext ol kl).ctx = true := by simp only [State.newContext]
@[simp] theorem State.newContext_dout (ol kl : BitVec 6) : (s.newContext ol kl).dout = Vector.replicate 32 0 := by simp only [State.newContext]
@[simp] theorem State.newContext_dlen (ol kl : BitVec 6) : (s.newContext ol kl).dlen = 0 := by simp only [State.newContext]
@[simp] theorem State.newContext_busy (ol kl : BitVec 6) : (s.newContext ol kl).busy = s.busy := by simp only [State.newContext]
@[simp] theorem State.newContext_err (ol kl : BitVec 6) : (s.newContext ol kl).err = s.err := by simp only [State.newContext]
@[simp] theorem State.newContext_ovr (ol kl : BitVec 6) : (s.newContext ol kl).ovr = s.ovr := by simp only [State.newContext]
@[simp] theorem State.newContext_pend (ol kl : BitVec 6) : (s.newContext ol kl).pend = s.pend := by simp only [State.newContext]
@[simp] theorem State.newContext_din (ol kl : BitVec 6) : (s.newContext ol kl).din = s.din := by simp only [State.newContext]
@[simp] theorem State.newContext_kin (ol kl : BitVec 6) : (s.newContext ol kl).kin = s.kin := by simp only [State.newContext]
@[simp] theorem State.newContext_ctrinLo (ol kl : BitVec 6) : (s.newContext ol kl).ctrinLo = s.ctrinLo := by simp only [State.newContext]
@[simp] theorem State.newContext_ctrinHi (ol kl : BitVec 6) : (s.newContext ol kl).ctrinHi = s.ctrinHi := by simp only [State.newContext]
@[simp] theorem State.newContext_resetIn (ol kl : BitVec 6) : (s.newContext ol kl).resetIn = s.resetIn := by simp only [State.newContext]
@[simp] theorem State.newContext_host (ol kl : BitVec 6) : (s.newContext ol kl).host = s.host := by simp only [State.newContext]
@[simp] theorem State.newContext_replies (ol kl : BitVec 6) : (s.newContext ol kl).replies = s.replies := by simp only [State.newContext]
@[simp] theorem State.newContext_wait (ol kl : BitVec 6) : (s.newContext ol kl).wait = s.wait := by simp only [State.newContext]
@[simp] theorem State.newContext_latencies (ol kl : BitVec 6) : (s.newContext ol kl).latencies = s.latencies := by simp only [State.newContext]
@[simp] theorem State.newContext_accepted (ol kl : BitVec 6) : (s.newContext ol kl).accepted = s.accepted := by simp only [State.newContext]

/-! ## `State.outputState` -/

@[simp] theorem State.outputState_h (st : Vector Word 8) : (s.outputState st).h = s.h := by simp only [State.outputState]
@[simp] theorem State.outputState_buf (st : Vector Word 8) : (s.outputState st).buf = s.buf := by simp only [State.outputState]
@[simp] theorem State.outputState_ctr (st : Vector Word 8) : (s.outputState st).ctr = s.ctr := by simp only [State.outputState]
@[simp] theorem State.outputState_outlen (st : Vector Word 8) : (s.outputState st).outlen = s.outlen := by simp only [State.outputState]
@[simp] theorem State.outputState_keylen (st : Vector Word 8) : (s.outputState st).keylen = s.keylen := by simp only [State.outputState]
@[simp] theorem State.outputState_skey (st : Vector Word 8) : (s.outputState st).skey = s.skey := by simp only [State.outputState]
@[simp] theorem State.outputState_ctx (st : Vector Word 8) : (s.outputState st).ctx = s.ctx := by simp only [State.outputState]
@[simp] theorem State.outputState_dout (st : Vector Word 8) : (s.outputState st).dout = ser8 st := by simp only [State.outputState]
@[simp] theorem State.outputState_dlen (st : Vector Word 8) : (s.outputState st).dlen = 32 := by simp only [State.outputState]
@[simp] theorem State.outputState_busy (st : Vector Word 8) : (s.outputState st).busy = s.busy := by simp only [State.outputState]
@[simp] theorem State.outputState_err (st : Vector Word 8) : (s.outputState st).err = s.err := by simp only [State.outputState]
@[simp] theorem State.outputState_ovr (st : Vector Word 8) : (s.outputState st).ovr = s.ovr := by simp only [State.outputState]
@[simp] theorem State.outputState_pend (st : Vector Word 8) : (s.outputState st).pend = s.pend := by simp only [State.outputState]
@[simp] theorem State.outputState_din (st : Vector Word 8) : (s.outputState st).din = s.din := by simp only [State.outputState]
@[simp] theorem State.outputState_kin (st : Vector Word 8) : (s.outputState st).kin = s.kin := by simp only [State.outputState]
@[simp] theorem State.outputState_ctrinLo (st : Vector Word 8) : (s.outputState st).ctrinLo = s.ctrinLo := by simp only [State.outputState]
@[simp] theorem State.outputState_ctrinHi (st : Vector Word 8) : (s.outputState st).ctrinHi = s.ctrinHi := by simp only [State.outputState]
@[simp] theorem State.outputState_resetIn (st : Vector Word 8) : (s.outputState st).resetIn = s.resetIn := by simp only [State.outputState]
@[simp] theorem State.outputState_host (st : Vector Word 8) : (s.outputState st).host = s.host := by simp only [State.outputState]
@[simp] theorem State.outputState_replies (st : Vector Word 8) : (s.outputState st).replies = s.replies := by simp only [State.outputState]
@[simp] theorem State.outputState_wait (st : Vector Word 8) : (s.outputState st).wait = s.wait := by simp only [State.outputState]
@[simp] theorem State.outputState_latencies (st : Vector Word 8) : (s.outputState st).latencies = s.latencies := by simp only [State.outputState]
@[simp] theorem State.outputState_accepted (st : Vector Word 8) : (s.outputState st).accepted = s.accepted := by simp only [State.outputState]

/-! ## `State.reply` -/

@[simp] theorem State.reply_h (v : Word) : (s.reply v).h = s.h := rfl
@[simp] theorem State.reply_buf (v : Word) : (s.reply v).buf = s.buf := rfl
@[simp] theorem State.reply_ctr (v : Word) : (s.reply v).ctr = s.ctr := rfl
@[simp] theorem State.reply_outlen (v : Word) : (s.reply v).outlen = s.outlen := rfl
@[simp] theorem State.reply_keylen (v : Word) : (s.reply v).keylen = s.keylen := rfl
@[simp] theorem State.reply_skey (v : Word) : (s.reply v).skey = s.skey := rfl
@[simp] theorem State.reply_ctx (v : Word) : (s.reply v).ctx = s.ctx := rfl
@[simp] theorem State.reply_dout (v : Word) : (s.reply v).dout = s.dout := rfl
@[simp] theorem State.reply_dlen (v : Word) : (s.reply v).dlen = s.dlen := rfl
@[simp] theorem State.reply_busy (v : Word) : (s.reply v).busy = s.busy := rfl
@[simp] theorem State.reply_err (v : Word) : (s.reply v).err = s.err := rfl
@[simp] theorem State.reply_ovr (v : Word) : (s.reply v).ovr = s.ovr := rfl
@[simp] theorem State.reply_pend (v : Word) : (s.reply v).pend = s.pend := rfl
@[simp] theorem State.reply_din (v : Word) : (s.reply v).din = s.din := rfl
@[simp] theorem State.reply_kin (v : Word) : (s.reply v).kin = s.kin := rfl
@[simp] theorem State.reply_ctrinLo (v : Word) : (s.reply v).ctrinLo = s.ctrinLo := rfl
@[simp] theorem State.reply_ctrinHi (v : Word) : (s.reply v).ctrinHi = s.ctrinHi := rfl
@[simp] theorem State.reply_resetIn (v : Word) : (s.reply v).resetIn = s.resetIn := rfl
@[simp] theorem State.reply_host (v : Word) : (s.reply v).host = s.host := rfl
@[simp] theorem State.reply_replies (v : Word) : (s.reply v).replies = s.replies ++ [v] := rfl
@[simp] theorem State.reply_wait (v : Word) : (s.reply v).wait = s.wait := rfl
@[simp] theorem State.reply_latencies (v : Word) : (s.reply v).latencies = s.latencies := rfl
@[simp] theorem State.reply_accepted (v : Word) : (s.reply v).accepted = s.accepted := rfl

/-! ## `State.takeInput` -/

@[simp] theorem State.takeInput_h (rest : List HostOp) : (s.takeInput rest).h = s.h := rfl
@[simp] theorem State.takeInput_buf (rest : List HostOp) : (s.takeInput rest).buf = s.buf := rfl
@[simp] theorem State.takeInput_ctr (rest : List HostOp) : (s.takeInput rest).ctr = s.ctr := rfl
@[simp] theorem State.takeInput_outlen (rest : List HostOp) : (s.takeInput rest).outlen = s.outlen := rfl
@[simp] theorem State.takeInput_keylen (rest : List HostOp) : (s.takeInput rest).keylen = s.keylen := rfl
@[simp] theorem State.takeInput_skey (rest : List HostOp) : (s.takeInput rest).skey = s.skey := rfl
@[simp] theorem State.takeInput_ctx (rest : List HostOp) : (s.takeInput rest).ctx = s.ctx := rfl
@[simp] theorem State.takeInput_dout (rest : List HostOp) : (s.takeInput rest).dout = s.dout := rfl
@[simp] theorem State.takeInput_dlen (rest : List HostOp) : (s.takeInput rest).dlen = s.dlen := rfl
@[simp] theorem State.takeInput_busy (rest : List HostOp) : (s.takeInput rest).busy = s.busy := rfl
@[simp] theorem State.takeInput_err (rest : List HostOp) : (s.takeInput rest).err = s.err := rfl
@[simp] theorem State.takeInput_ovr (rest : List HostOp) : (s.takeInput rest).ovr = s.ovr := rfl
@[simp] theorem State.takeInput_pend (rest : List HostOp) : (s.takeInput rest).pend = s.pend := rfl
@[simp] theorem State.takeInput_din (rest : List HostOp) : (s.takeInput rest).din = s.din := rfl
@[simp] theorem State.takeInput_kin (rest : List HostOp) : (s.takeInput rest).kin = s.kin := rfl
@[simp] theorem State.takeInput_ctrinLo (rest : List HostOp) : (s.takeInput rest).ctrinLo = s.ctrinLo := rfl
@[simp] theorem State.takeInput_ctrinHi (rest : List HostOp) : (s.takeInput rest).ctrinHi = s.ctrinHi := rfl
@[simp] theorem State.takeInput_resetIn (rest : List HostOp) : (s.takeInput rest).resetIn = s.resetIn := rfl
@[simp] theorem State.takeInput_host (rest : List HostOp) : (s.takeInput rest).host = rest := rfl
@[simp] theorem State.takeInput_replies (rest : List HostOp) : (s.takeInput rest).replies = s.replies := rfl
@[simp] theorem State.takeInput_wait (rest : List HostOp) : (s.takeInput rest).wait = s.wait - 1 := rfl
@[simp] theorem State.takeInput_latencies (rest : List HostOp) : (s.takeInput rest).latencies = s.latencies := rfl
@[simp] theorem State.takeInput_accepted (rest : List HostOp) : (s.takeInput rest).accepted = s.accepted := rfl

/-! ## `State.placeCommand` -/

@[simp] theorem State.placeCommand_h (w : Word) : (s.placeCommand w).h = s.h := rfl
@[simp] theorem State.placeCommand_buf (w : Word) : (s.placeCommand w).buf = s.buf := rfl
@[simp] theorem State.placeCommand_ctr (w : Word) : (s.placeCommand w).ctr = s.ctr := rfl
@[simp] theorem State.placeCommand_outlen (w : Word) : (s.placeCommand w).outlen = s.outlen := rfl
@[simp] theorem State.placeCommand_keylen (w : Word) : (s.placeCommand w).keylen = s.keylen := rfl
@[simp] theorem State.placeCommand_skey (w : Word) : (s.placeCommand w).skey = s.skey := rfl
@[simp] theorem State.placeCommand_ctx (w : Word) : (s.placeCommand w).ctx = s.ctx := rfl
@[simp] theorem State.placeCommand_dout (w : Word) : (s.placeCommand w).dout = s.dout := rfl
@[simp] theorem State.placeCommand_dlen (w : Word) : (s.placeCommand w).dlen = s.dlen := rfl
@[simp] theorem State.placeCommand_busy (w : Word) : (s.placeCommand w).busy = true := rfl
@[simp] theorem State.placeCommand_err (w : Word) : (s.placeCommand w).err = s.err := rfl
@[simp] theorem State.placeCommand_ovr (w : Word) : (s.placeCommand w).ovr = s.ovr := rfl
@[simp] theorem State.placeCommand_pend (w : Word) : (s.placeCommand w).pend = w := rfl
@[simp] theorem State.placeCommand_din (w : Word) : (s.placeCommand w).din = s.din := rfl
@[simp] theorem State.placeCommand_kin (w : Word) : (s.placeCommand w).kin = s.kin := rfl
@[simp] theorem State.placeCommand_ctrinLo (w : Word) : (s.placeCommand w).ctrinLo = s.ctrinLo := rfl
@[simp] theorem State.placeCommand_ctrinHi (w : Word) : (s.placeCommand w).ctrinHi = s.ctrinHi := rfl
@[simp] theorem State.placeCommand_resetIn (w : Word) : (s.placeCommand w).resetIn = false := rfl
@[simp] theorem State.placeCommand_host (w : Word) : (s.placeCommand w).host = s.host := rfl
@[simp] theorem State.placeCommand_replies (w : Word) : (s.placeCommand w).replies = s.replies := rfl
@[simp] theorem State.placeCommand_wait (w : Word) : (s.placeCommand w).wait = 0 := rfl
@[simp] theorem State.placeCommand_latencies (w : Word) : (s.placeCommand w).latencies = s.latencies := rfl
@[simp] theorem State.placeCommand_accepted (w : Word) : (s.placeCommand w).accepted = s.accepted := rfl

/-! ## `State.hardwareReset` -/

@[simp] theorem State.hardwareReset_h : (s.hardwareReset).h = Vector.replicate 8 0 := rfl
@[simp] theorem State.hardwareReset_buf : (s.hardwareReset).buf = Vector.replicate 64 0 := rfl
@[simp] theorem State.hardwareReset_ctr : (s.hardwareReset).ctr = 0 := rfl
@[simp] theorem State.hardwareReset_outlen : (s.hardwareReset).outlen = 0 := rfl
@[simp] theorem State.hardwareReset_keylen : (s.hardwareReset).keylen = 0 := rfl
@[simp] theorem State.hardwareReset_skey : (s.hardwareReset).skey = Vector.replicate 32 0 := rfl
@[simp] theorem State.hardwareReset_ctx : (s.hardwareReset).ctx = false := rfl
@[simp] theorem State.hardwareReset_dout : (s.hardwareReset).dout = Vector.replicate 32 0 := rfl
@[simp] theorem State.hardwareReset_dlen : (s.hardwareReset).dlen = 0 := rfl
@[simp] theorem State.hardwareReset_busy : (s.hardwareReset).busy = false := rfl
@[simp] theorem State.hardwareReset_err : (s.hardwareReset).err = .success := rfl
@[simp] theorem State.hardwareReset_ovr : (s.hardwareReset).ovr = false := rfl
@[simp] theorem State.hardwareReset_pend : (s.hardwareReset).pend = 0 := rfl
@[simp] theorem State.hardwareReset_din : (s.hardwareReset).din = Vector.replicate 16 0 := rfl
@[simp] theorem State.hardwareReset_kin : (s.hardwareReset).kin = Vector.replicate 8 0 := rfl
@[simp] theorem State.hardwareReset_ctrinLo : (s.hardwareReset).ctrinLo = 0 := rfl
@[simp] theorem State.hardwareReset_ctrinHi : (s.hardwareReset).ctrinHi = 0 := rfl
@[simp] theorem State.hardwareReset_resetIn : (s.hardwareReset).resetIn = s.resetIn := rfl
@[simp] theorem State.hardwareReset_host : (s.hardwareReset).host = s.host := rfl
@[simp] theorem State.hardwareReset_replies : (s.hardwareReset).replies = s.replies := rfl
@[simp] theorem State.hardwareReset_wait : (s.hardwareReset).wait = 0 := rfl
@[simp] theorem State.hardwareReset_latencies : (s.hardwareReset).latencies = s.latencies := rfl
@[simp] theorem State.hardwareReset_accepted : (s.hardwareReset).accepted = s.accepted := rfl

/-! ## `State.assertReset` -/

@[simp] theorem State.assertReset_h : (s.assertReset).h = Vector.replicate 8 0 := rfl
@[simp] theorem State.assertReset_buf : (s.assertReset).buf = Vector.replicate 64 0 := rfl
@[simp] theorem State.assertReset_ctr : (s.assertReset).ctr = 0 := rfl
@[simp] theorem State.assertReset_outlen : (s.assertReset).outlen = 0 := rfl
@[simp] theorem State.assertReset_keylen : (s.assertReset).keylen = 0 := rfl
@[simp] theorem State.assertReset_skey : (s.assertReset).skey = Vector.replicate 32 0 := rfl
@[simp] theorem State.assertReset_ctx : (s.assertReset).ctx = false := rfl
@[simp] theorem State.assertReset_dout : (s.assertReset).dout = Vector.replicate 32 0 := rfl
@[simp] theorem State.assertReset_dlen : (s.assertReset).dlen = 0 := rfl
@[simp] theorem State.assertReset_busy : (s.assertReset).busy = false := rfl
@[simp] theorem State.assertReset_err : (s.assertReset).err = .success := rfl
@[simp] theorem State.assertReset_ovr : (s.assertReset).ovr = false := rfl
@[simp] theorem State.assertReset_pend : (s.assertReset).pend = 0 := rfl
@[simp] theorem State.assertReset_din : (s.assertReset).din = Vector.replicate 16 0 := rfl
@[simp] theorem State.assertReset_kin : (s.assertReset).kin = Vector.replicate 8 0 := rfl
@[simp] theorem State.assertReset_ctrinLo : (s.assertReset).ctrinLo = 0 := rfl
@[simp] theorem State.assertReset_ctrinHi : (s.assertReset).ctrinHi = 0 := rfl
@[simp] theorem State.assertReset_resetIn : (s.assertReset).resetIn = true := rfl
@[simp] theorem State.assertReset_host : (s.assertReset).host = s.host := rfl
@[simp] theorem State.assertReset_replies : (s.assertReset).replies = s.replies := rfl
@[simp] theorem State.assertReset_wait : (s.assertReset).wait = 0 := rfl
@[simp] theorem State.assertReset_latencies : (s.assertReset).latencies = s.latencies := rfl
@[simp] theorem State.assertReset_accepted : (s.assertReset).accepted = s.accepted := rfl

/-! ## `State.releaseReset` -/

@[simp] theorem State.releaseReset_h : (s.releaseReset).h = s.h := rfl
@[simp] theorem State.releaseReset_buf : (s.releaseReset).buf = s.buf := rfl
@[simp] theorem State.releaseReset_ctr : (s.releaseReset).ctr = s.ctr := rfl
@[simp] theorem State.releaseReset_outlen : (s.releaseReset).outlen = s.outlen := rfl
@[simp] theorem State.releaseReset_keylen : (s.releaseReset).keylen = s.keylen := rfl
@[simp] theorem State.releaseReset_skey : (s.releaseReset).skey = s.skey := rfl
@[simp] theorem State.releaseReset_ctx : (s.releaseReset).ctx = s.ctx := rfl
@[simp] theorem State.releaseReset_dout : (s.releaseReset).dout = s.dout := rfl
@[simp] theorem State.releaseReset_dlen : (s.releaseReset).dlen = s.dlen := rfl
@[simp] theorem State.releaseReset_busy : (s.releaseReset).busy = s.busy := rfl
@[simp] theorem State.releaseReset_err : (s.releaseReset).err = s.err := rfl
@[simp] theorem State.releaseReset_ovr : (s.releaseReset).ovr = s.ovr := rfl
@[simp] theorem State.releaseReset_pend : (s.releaseReset).pend = s.pend := rfl
@[simp] theorem State.releaseReset_din : (s.releaseReset).din = s.din := rfl
@[simp] theorem State.releaseReset_kin : (s.releaseReset).kin = s.kin := rfl
@[simp] theorem State.releaseReset_ctrinLo : (s.releaseReset).ctrinLo = s.ctrinLo := rfl
@[simp] theorem State.releaseReset_ctrinHi : (s.releaseReset).ctrinHi = s.ctrinHi := rfl
@[simp] theorem State.releaseReset_resetIn : (s.releaseReset).resetIn = false := rfl
@[simp] theorem State.releaseReset_host : (s.releaseReset).host = s.host := rfl
@[simp] theorem State.releaseReset_replies : (s.releaseReset).replies = s.replies := rfl
@[simp] theorem State.releaseReset_wait : (s.releaseReset).wait = s.wait := rfl
@[simp] theorem State.releaseReset_latencies : (s.releaseReset).latencies = s.latencies := rfl
@[simp] theorem State.releaseReset_accepted : (s.releaseReset).accepted = s.accepted := rfl

end Sys2Proof.Machine
end

