-- ==== Sys2Proof/Machine/HostProgram.lean ====
section
/-! DEFINITION. The Host program syntax of 30_encoding.md R108 and the pseudo-commands of R109 to R112, as lists of inputs;
the well-formedness of a Host program (R103). -/

namespace Sys2Proof.Machine

/-- `WR off, value` (30_encoding.md R108). -/
def wr (off : BitVec 8) (value : Word) : HostOp := .write .word off value

/-- `RD off` (30_encoding.md R108). -/
def rd (off : BitVec 8) : HostOp := .read .word off

/-- `CMD <command>`: `WR 0x00, <encoding>` followed by `POLL` (30_encoding.md R108). -/
def cmd (i : Instr) : List HostOp := [wr 0x00 (encode i), .poll]

/-- LE32 of bytes padded with zero bytes to a multiple of 4, word by word (30_encoding.md R108). -/
def wordsOfBytes : List Byte → List Word
  | [] => []
  | [b0] => [wordOfBytes b0 0 0 0]
  | [b0, b1] => [wordOfBytes b0 b1 0 0]
  | [b0, b1, b2] => [wordOfBytes b0 b1 b2 0]
  | b0 :: b1 :: b2 :: b3 :: rest => wordOfBytes b0 b1 b2 b3 :: wordsOfBytes rest

/-- `WR off + 4i, words[i]` for each i, for offsets that do not pass 0xFF (`load`). -/
def wrWords (off : BitVec 8) : List Word → List HostOp
  | [] => []
  | w :: rest => wr off w :: wrWords (off + 4) rest

/-- `LOAD off, <bytes>` (30_encoding.md R108). DESIGN CHOICE (log entry 18): a LOAD one of whose offsets off + 4i is above 0xFF, the
last offset the port carries, has no expansion. -/
def load (off : BitVec 8) (bytes : List Byte) : Option (List HostOp) :=
  if off.toNat + 4 * ((wordsOfBytes bytes).length - 1) ≤ 0xFF then some (wrWords off (wordsOfBytes bytes)) else none

/-- A chunk `STREAM` may send: 1 to 64 bytes (30_encoding.md R109). -/
def legalChunk (c : List Byte) : Bool := decide (1 ≤ c.length ∧ c.length ≤ 64)

/-- `LOAD 0x40, c; CMD UPDATE k` for a chunk c of k bytes (30_encoding.md R109). DESIGN CHOICE (log entry 18): a chunk that is not of
1 to 64 bytes has no expansion. -/
def streamChunk (c : List Byte) : Option (List HostOp) :=
  if legalChunk c then (load 0x40 c).map (· ++ cmd (.update (BitVec.ofNat 7 c.length))) else none

/-- `STREAM data`, the Host having chosen the split into chunks (30_encoding.md R109): the expansions of the chunks in order.
DESIGN CHOICE (log entry 18): of the two expansions the rule allows for the empty string, nothing or `CMD UPDATE 0`, the model takes
nothing; the other is `cmd (.update 0)`, which a Host may still make. -/
def streamChunks : List (List Byte) → Option (List HostOp)
  | [] => some []
  | c :: rest =>
    match streamChunk c, streamChunks rest with
    | some ops, some more => some (ops ++ more)
    | _, _ => none

/-- `RD 0xA0 ..` for the DOUT words that hold the first `n` bytes. -/
def readDigest (n : Nat) : List HostOp := (List.range ((n + 3) / 4)).map fun i => rd (BitVec.ofNat 8 (0xA0 + 4 * i))

/-- `HASH data` (30_encoding.md R110). -/
def hashProgram (chunks : List (List Byte)) : Option (List HostOp) :=
  (streamChunks chunks).map fun stream => cmd (.init 32 0) ++ stream ++ cmd .final ++ readDigest 32

/-- What follows the INIT of HASH_INTO: `STREAM data; CMD FINAL; RD 0x04; RD 0xA0 ..` (30_encoding.md R111). -/
def hashIntoRest (outlen : BitVec 6) (stream : List HostOp) : List HostOp :=
  stream ++ cmd .final ++ [rd 0x04] ++ readDigest outlen.toNat

/-- `HASH_INTO outlen, key, data` (30_encoding.md R111). If the INIT completes with a nonzero ERR "the expansion stops there" (log
entry 12). DESIGN CHOICE (log entry 18): a key whose length the six bits of KEYLEN cannot say has no expansion. -/
def hashInto (outlen : BitVec 6) (key : List Byte) (chunks : List (List Byte)) : Option (List HostOp) :=
  if key.length < 64 then
    match load 0x80 key, streamChunks chunks with
    | some loadKey, some stream =>
      some (loadKey ++ cmd (.init outlen (BitVec.ofNat 6 key.length))
        ++ .skipIfErr (hashIntoRest outlen stream).length :: hashIntoRest outlen stream)
    | _, _ => none
  else none

/-- `MAC_NEXT data` (30_encoding.md R112). DESIGN CHOICE (log entry 18): its "RD 0xA0 .." reads every word of DOUT. -/
def macNext (chunks : List (List Byte)) : Option (List HostOp) :=
  (streamChunks chunks).map fun stream => stream ++ cmd .finalReset ++ readDigest 32

/-- A CMD value that decodes to a command other than Invalid. -/
def decodes (w : Word) : Bool :=
  match decode w with
  | .ok _ => true
  | .error _ => false

/-- The check on one input of a Host program: its access is admitted (20_memory.md R72), and a CMD value it writes decodes to a
command (30_encoding.md R103). -/
def HostOp.wellFormed (op : HostOp) : Bool :=
  op.enabled &&
    match op with
    | .write _ off value => if Reg.ofOff off = .cmd then decodes value else true
    | .read _ _ => true
    | .poll => true
    | .skipIfErr _ => true
    | .assertReset => true
    | .releaseReset => true

/-- The check on a Host program (30_encoding.md R103). It is a check on programs, not on the hardware, which takes every word
(R102): the step does not make it. -/
def programWellFormed (ops : List HostOp) : Bool := ops.all HostOp.wellFormed

end Sys2Proof.Machine
end

