-- ==== Sys2Proof/Laws/Ops.lean ====
section
/-! SUPPORT. One lemma per shared operation, saying all it can do, for proofs to cite instead of unfolding it: the byte
arrays, ABSORB, FINALIZE, the answers of the commands, the turns of a step, the inputs, the registers of the window, the pseudo-commands. -/

namespace Sys2Proof.Machine

/-! ## Byte arrays -/

@[simp] theorem ser8_getElem (ws : Vector Word 8) (k : Nat) (h : k < 32) :
    (ser8 ws)[k] = byteOf ws[k / 4] (k % 4) := by
  simp [ser8]

@[simp] theorem ser16_getElem (ws : Vector Word 16) (k : Nat) (h : k < 64) :
    (ser16 ws)[k] = byteOf ws[k / 4] (k % 4) := by
  simp [ser16]

@[simp] theorem padBlock_getElem (buf : Vector Byte 64) (p i : Nat) (h : i < 64) :
    (padBlock buf p)[i] = if i < p then buf[i] else 0 := by
  simp [padBlock]

@[simp] theorem truncateBytes_getElem (raw : Vector Byte 32) (n i : Nat) (h : i < 32) :
    (truncateBytes raw n)[i] = if i < n then raw[i] else 0 := by
  simp [truncateBytes]

theorem keyBlock_getElem (keylen : BitVec 6) (skey : Vector Byte 32) (i : Nat) (h : i < 64) :
    (keyBlock keylen skey)[i] = if h' : i < 32 then (if i < keylen.toNat then skey[i] else 0) else 0 := by
  simp [keyBlock]

@[simp] theorem keyOperand_getElem (s : State) (kl i : Nat) (h : i < 32) :
    (s.keyOperand kl)[i] = if i < kl then s.kinb[i] else 0 := by
  simp [State.keyOperand]

@[simp] theorem messageWords_getElem (block : Vector Byte 64) (i : Nat) (h : i < 16) :
    (messageWords block)[i] = le32 block ⟨i, h⟩ := by
  simp [messageWords]

@[simp] theorem toBlock_getElem (bytes : List Byte) (i : Nat) (h : i < 64) :
    (toBlock bytes)[i] = bytes.getD i 0 := by
  simp [toBlock]

theorem byteOf_wordOfBytes (b0 b1 b2 b3 : Byte) :
    byteOf (wordOfBytes b0 b1 b2 b3) 0 = b0 ∧ byteOf (wordOfBytes b0 b1 b2 b3) 1 = b1
      ∧ byteOf (wordOfBytes b0 b1 b2 b3) 2 = b2 ∧ byteOf (wordOfBytes b0 b1 b2 b3) 3 = b3 := by
  refine ⟨?_, ?_, ?_, ?_⟩ <;>
  · apply BitVec.eq_of_getLsbD_eq
    intro i hi
    simp only [byteOf, wordOfBytes, BitVec.getLsbD_extractLsb', BitVec.getLsbD_append]
    interval_cases i <;> simp

/-- The loads of a serialized list are the list: LE32 undoes SER (20_memory.md R74). -/
theorem le32_ser16 (ws : Vector Word 16) (i : Fin 16) : le32 (ser16 ws) i = ws[i] := by
  have e0 : (4 * i.val) / 4 = i.val := by omega
  have e1 : (4 * i.val + 1) / 4 = i.val := by omega
  have e2 : (4 * i.val + 2) / 4 = i.val := by omega
  have e3 : (4 * i.val + 3) / 4 = i.val := by omega
  have m0 : (4 * i.val) % 4 = 0 := by omega
  have m1 : (4 * i.val + 1) % 4 = 1 := by omega
  have m2 : (4 * i.val + 2) % 4 = 2 := by omega
  have m3 : (4 * i.val + 3) % 4 = 3 := by omega
  simp only [le32, ser16_getElem, e0, e1, e2, e3, m0, m1, m2, m3, wordOfBytes, byteOf, Fin.getElem_fin]
  apply BitVec.eq_of_getLsbD_eq
  intro j hj
  simp only [BitVec.getLsbD_extractLsb', BitVec.getLsbD_append]
  interval_cases j <;> simp

@[simp] theorem updateData_length (s : State) (n : Nat) : (s.updateData n).length = min n 64 := by
  simp [State.updateData]

/-! ## The occupancy -/

theorem occ_le (c : Counter) : occ c ≤ 64 := by
  unfold occ
  split
  · exact Nat.zero_le _
  · omega

theorem occ_zero : occ 0 = 0 := rfl

/-- Occ(c) and c agree modulo 64 (41_streaming_state_manager.md R150). -/
theorem occ_mod (c : Counter) : occ c % 64 = c.toNat % 64 := by
  unfold occ
  split
  · next h => subst h; rfl
  · next h =>
    have : c.toNat ≠ 0 := fun e => h (BitVec.eq_of_toNat_eq (by simpa using e))
    omega

/-- Occ is 64 exactly at the nonzero multiples of 64 (41_streaming_state_manager.md R150). -/
theorem occ_eq_64 (c : Counter) : occ c = 64 ↔ c ≠ 0 ∧ c.toNat % 64 = 0 := by
  unfold occ
  split
  · next h => simp [h]
  · next h =>
    have : c.toNat ≠ 0 := fun e => h (BitVec.eq_of_toNat_eq (by simpa using e))
    constructor
    · intro e
      exact ⟨h, by omega⟩
    · rintro ⟨-, e⟩
      omega

theorem sentinel_toNat : sentinel.toNat = 2 ^ 64 - 1 := by decide

theorem ctr_eq_sentinel (c : Counter) : c = sentinel ↔ c.toNat = 2 ^ 64 - 1 := by
  constructor
  · rintro rfl
    exact sentinel_toNat
  · intro h
    exact BitVec.eq_of_toNat_eq (by rw [h, sentinel_toNat])

theorem fin_eq_true (s : State) : s.fin = true ↔ s.ctx = true ∧ s.ctr = sentinel := by
  simp [State.fin]

/-! ## ABSORB -/

@[simp] theorem absorbAll_nil (s : State) : s.absorbAll [] = s := rfl

@[simp] theorem absorbAll_cons (s : State) (b : Byte) (bs : List Byte) :
    s.absorbAll (b :: bs) = (s.absorb b).absorbAll bs := rfl

/-- ABSORB works byte by byte (41_streaming_state_manager.md R166). -/
theorem absorbAll_append (s : State) (as bs : List Byte) :
    s.absorbAll (as ++ bs) = (s.absorbAll as).absorbAll bs := by
  simp [State.absorbAll, List.foldl_append]

/-- All ABSORB can change is H, BUF and CTR. -/
theorem absorb_frame (s : State) (b : Byte) :
    s.absorb b = { s with h := (s.absorb b).h, buf := (s.absorb b).buf, ctr := s.ctr + 1 } := by
  unfold State.absorb State.push State.flushFull
  split <;> rfl

/-- ABSORB without a compression: the buffer is not full. -/
theorem absorb_of_not_full (s : State) (b : Byte) (h : occ s.ctr ≠ 64) : s.absorb b = s.push b := by
  unfold State.absorb State.flushFull
  rw [if_neg]
  rw [← occ_eq_64]
  exact h

/-- ABSORB with a compression: the buffer is full. -/
theorem absorb_of_full (s : State) (b : Byte) (h : occ s.ctr = 64) :
    s.absorb b = { s with h := compressF s.h s.buf s.ctr false }.push b := by
  unfold State.absorb State.flushFull
  rw [if_pos]
  rw [← occ_eq_64]
  exact h

/-- All the bytes of an UPDATE can change is H, BUF and CTR, and CTR counts them. -/
theorem absorbAll_frame (s : State) (bs : List Byte) :
    s.absorbAll bs = { s with
      h := (s.absorbAll bs).h, buf := (s.absorbAll bs).buf, ctr := s.ctr + BitVec.ofNat 64 bs.length } := by
  induction bs generalizing s with
  | nil => simp
  | cons b bs ih =>
    rw [absorbAll_cons, ih (s.absorb b)]
    rw [absorb_frame s b]
    have : s.ctr + 1 + BitVec.ofNat 64 bs.length = s.ctr + BitVec.ofNat 64 (b :: bs).length := by
      rw [List.length_cons, BitVec.add_assoc, Nat.add_comm bs.length 1, BitVec.ofNat_add]
      rfl
    simp only [this]

@[simp] theorem absorbAll_ctr (s : State) (bs : List Byte) :
    (s.absorbAll bs).ctr = s.ctr + BitVec.ofNat 64 bs.length := by
  rw [absorbAll_frame]

/-- ABSORB reads only the context: it commutes with a change of DIN, KIN or ERR. -/
theorem absorbAll_withStaging (s : State) (din : Vector Word 16) (kin : Vector Word 8) (e : ErrCode) (bs : List Byte) :
    State.absorbAll { s with din := din, kin := kin, err := e } bs
      = { s.absorbAll bs with din := din, kin := kin, err := e } := by
  induction bs generalizing s with
  | nil => rfl
  | cons b bs ih =>
    rw [absorbAll_cons, absorbAll_cons, ← ih]
    congr 1
    unfold State.absorb State.push State.flushFull
    split <;> rfl

/-! ## The answers of commands -/

@[simp] theorem raise_eq (e : ErrCode) (s : State) : s.raise e = .next { s with err := e } := rfl

@[simp] theorem succeed_eq (s : State) : s.succeed = .next { s with err := .success } := rfl

@[simp] theorem mapNext_next (f : State → State) (s : State) : mapNext f (.next s) = .next (f s) := rfl

/-- No command stops (60_exceptions.md R226, R237). -/
theorem exec_answers_next (i : Instr) (s : State) : ∃ t, exec i s = .next t := by
  cases i with
  | init outlen keylen =>
    simp only [exec, execInit]
    split
    · exact ⟨_, rfl⟩
    · split <;> exact ⟨_, rfl⟩
  | update nbytes =>
    simp only [exec, execUpdate]
    repeat' split
    all_goals exact ⟨_, rfl⟩
  | final =>
    simp only [exec, execFinal]
    repeat' split
    all_goals exact ⟨_, rfl⟩
  | finalReset =>
    simp only [exec, execFinalReset]
    repeat' split
    all_goals exact ⟨_, rfl⟩
  | reset =>
    simp only [exec, execReset]
    split <;> exact ⟨_, rfl⟩
  | compress last => exact ⟨_, rfl⟩

/-- Everything an INIT can answer (41_streaming_state_manager.md R155). -/
theorem execInit_cases {outlen keylen : BitVec 6} {s t : State} (h : execInit outlen keylen s = .next t) :
    ((outlen.toNat < 1 ∨ 32 < outlen.toNat) ∧ t = s.withErr .invalidOutputLength)
      ∨ (1 ≤ outlen.toNat ∧ outlen.toNat ≤ 32 ∧ 32 < keylen.toNat ∧ t = s.withErr .invalidKeyLength)
      ∨ (1 ≤ outlen.toNat ∧ outlen.toNat ≤ 32 ∧ keylen.toNat ≤ 32
          ∧ t = (s.newContext outlen keylen).seed.withErr .success) := by
  unfold execInit at h
  split at h
  · next hl => exact .inl ⟨hl, (Host.Outcome.next.inj h).symm⟩
  · next hl =>
    split at h
    · next hk => exact .inr (.inl ⟨by omega, by omega, hk, (Host.Outcome.next.inj h).symm⟩)
    · next hk => exact .inr (.inr ⟨by omega, by omega, by omega, (Host.Outcome.next.inj h).symm⟩)

/-- Everything an UPDATE can answer (41_streaming_state_manager.md R160). -/
theorem execUpdate_cases {n : BitVec 7} {s t : State} (h : execUpdate n s = .next t) :
    (64 < n.toNat ∧ t = s.withErr .invalidCommand)
      ∨ (s.ctx = false ∧ t = s.withErr .noContext)
      ∨ (s.ctx = true ∧ s.ctr = sentinel ∧ t = s.withErr .useAfterFinalize)
      ∨ (s.ctx = true ∧ s.ctr ≠ sentinel ∧ n.toNat ≤ 64 ∧ 2 ^ 64 - 1 ≤ s.ctr.toNat + n.toNat
          ∧ t = s.withErr .counterOverflow)
      ∨ (s.ctx = true ∧ n.toNat ≤ 64 ∧ s.ctr.toNat + n.toNat < 2 ^ 64 - 1
          ∧ t = (s.absorbAll (s.updateData n.toNat)).withErr .success) := by
  unfold execUpdate at h
  split at h
  · next hn => exact .inl ⟨hn, (Host.Outcome.next.inj h).symm⟩
  · next hn =>
    split at h
    · next hc => exact .inr (.inl ⟨hc, (Host.Outcome.next.inj h).symm⟩)
    · next hc =>
      have hc : s.ctx = true := by simpa using hc
      split at h
      · next hs => exact .inr (.inr (.inl ⟨hc, hs, (Host.Outcome.next.inj h).symm⟩))
      · next hs =>
        split at h
        · next ho =>
          have ho : 2 ^ 64 - 1 ≤ s.ctr.toNat + n.toNat := by simpa [counterOverflows] using ho
          exact .inr (.inr (.inr (.inl ⟨hc, hs, by omega, ho, (Host.Outcome.next.inj h).symm⟩)))
        · next ho =>
          have ho : ¬ 2 ^ 64 - 1 ≤ s.ctr.toNat + n.toNat := by simpa [counterOverflows] using ho
          exact .inr (.inr (.inr (.inr ⟨hc, by omega, by omega, (Host.Outcome.next.inj h).symm⟩)))

/-- Everything a FINAL can answer (41_streaming_state_manager.md R168). -/
theorem execFinal_cases {s t : State} (h : execFinal s = .next t) :
    (s.ctx = false ∧ t = s.withErr .noContext)
      ∨ (s.ctx = true ∧ s.ctr = sentinel ∧ t = s.withErr .useAfterFinalize)
      ∨ (s.ctx = true ∧ s.ctr ≠ sentinel ∧ t = s.finalize.withErr .success) := by
  unfold execFinal at h
  split at h
  · next hc => exact .inl ⟨hc, (Host.Outcome.next.inj h).symm⟩
  · next hc =>
    have hc : s.ctx = true := by simpa using hc
    split at h
    · next hs => exact .inr (.inl ⟨hc, hs, (Host.Outcome.next.inj h).symm⟩)
    · next hs => exact .inr (.inr ⟨hc, hs, (Host.Outcome.next.inj h).symm⟩)

/-- Everything a FINAL_RESET can answer (41_streaming_state_manager.md R174). -/
theorem execFinalReset_cases {s t : State} (h : execFinalReset s = .next t) :
    (s.ctx = false ∧ t = s.withErr .noContext)
      ∨ (s.ctx = true ∧ s.ctr = sentinel ∧ t = s.withErr .useAfterFinalize)
      ∨ (s.ctx = true ∧ s.ctr ≠ sentinel ∧ t = s.finalize.seed.withErr .success) := by
  unfold execFinalReset at h
  split at h
  · next hc => exact .inl ⟨hc, (Host.Outcome.next.inj h).symm⟩
  · next hc =>
    have hc : s.ctx = true := by simpa using hc
    split at h
    · next hs => exact .inr (.inl ⟨hc, hs, (Host.Outcome.next.inj h).symm⟩)
    · next hs => exact .inr (.inr ⟨hc, hs, (Host.Outcome.next.inj h).symm⟩)

/-- Everything a RESET can answer (41_streaming_state_manager.md R178). -/
theorem execReset_cases {s t : State} (h : execReset s = .next t) :
    (s.ctx = false ∧ t = s.withErr .noContext) ∨ (s.ctx = true ∧ t = s.seed.withErr .success) := by
  unfold execReset at h
  split at h
  · next hc => exact .inl ⟨hc, (Host.Outcome.next.inj h).symm⟩
  · next hc => exact .inr ⟨by simpa using hc, (Host.Outcome.next.inj h).symm⟩

/-- All a COMPRESS can answer (40_compression_engine.md R133). -/
theorem execCompress_eq (last : Bool) (s : State) :
    execCompress last s = .next ((s.outputState (compressF s.kin s.dinb s.ctrin last)).withErr .success) := rfl

/-! ## Turns -/

theorem engineTurn_eq_true (s : State) :
    s.engineTurn = true ↔ s.resetIn = false ∧ s.busy = true ∧ (s.wait = 0 ∨ s.hostReady = false) := by
  simp [State.engineTurn, and_assoc]

theorem engineTurn_of_not_busy {s : State} (h : s.busy = false) : s.engineTurn = false := by
  simp [State.engineTurn, h]

theorem resetIn_of_engineTurn {s : State} (h : s.engineTurn = true) : s.resetIn = false :=
  ((engineTurn_eq_true s).1 h).1

theorem step_of_engineTurn {s : State} (h : s.engineTurn = true) : step s = engineStep s := by
  simp [step, h, resetIn_of_engineTurn h]

theorem step_of_hostTurn {s : State} (hr : s.resetIn = false) (h : s.engineTurn = false) : step s = hostStep s := by
  simp [step, h, hr]

theorem step_of_resetIn {s : State} (h : s.resetIn = true) : step s = heldStep s := by
  simp [step, h]

/-- A step that serves an input is the serving of it. -/
theorem step_of_serves {s : State} {op : HostOp} {rest : List HostOp} (h : s.Serves op rest) :
    step s = serve op (s.takeInput rest) := by
  rw [step_of_hostTurn h.1 h.2.1, hostStep, h.2.2]

/-- Everything the Engine's step can answer: the decoded command or InvalidCommand, and BUSY cleared (60_exceptions.md R236). -/
theorem engineStep_cases {s t : State} (h : engineStep s = .next t) :
    (∃ i u, decode s.pend = .ok i ∧ exec i s = .next u ∧ t = u.complete)
      ∨ (∃ r, decode s.pend = .error r ∧ t = (s.withErr .invalidCommand).complete) := by
  unfold engineStep State.runPending at h
  cases hd : decode s.pend with
  | ok i =>
    obtain ⟨u, hu⟩ := exec_answers_next i s
    simp only [hd, hu, mapNext_next] at h
    exact .inl ⟨i, u, rfl, hu, (Host.Outcome.next.inj h).symm⟩
  | error r =>
    simp only [hd] at h
    exact .inr ⟨r, rfl, (Host.Outcome.next.inj h).symm⟩

/-- Everything the Host's step can answer (20_memory.md R76, 30_encoding.md R108, R111, 70_reset_and_hazards.md R250). -/
theorem hostStep_cases {s t : State} (h : hostStep s = .next t) :
    (s.host = [] ∧ t = s)
      ∨ (∃ off rest, s.host = .read .word off :: rest ∧ off.toNat % 4 = 0
          ∧ t = (s.takeInput rest).reply (s.readReg (Reg.ofOff off)))
      ∨ (∃ off v rest, s.host = .write .word off v :: rest ∧ off.toNat % 4 = 0
          ∧ t = (s.takeInput rest).writeReg v (Reg.ofOff off))
      ∨ (∃ rest, s.host = .poll :: rest ∧ t = (s.takeInput rest).pollOnce)
      ∨ (∃ n rest, s.host = .skipIfErr n :: rest ∧ t = (s.takeInput rest).stopOnErr n)
      ∨ (∃ rest, s.host = .assertReset :: rest ∧ t = (s.takeInput rest).assertReset)
      ∨ (∃ rest, s.host = .releaseReset :: rest ∧ t = s.takeInput rest) := by
  unfold hostStep at h
  cases hh : s.host with
  | nil =>
    rw [hh] at h
    exact .inl ⟨rfl, (Host.Outcome.next.inj h).symm⟩
  | cons op rest =>
    rw [hh] at h
    cases op with
    | read width off =>
      simp only [serve, serveRead] at h
      split at h
      · next ha =>
        simp only [admitted, Bool.and_eq_true, beq_iff_eq] at ha
        obtain ⟨rfl, ha⟩ := ha
        refine .inr (.inl ⟨off, rest, rfl, ha, ?_⟩)
        rw [← Host.Outcome.next.inj h]
        rfl
      · cases h
    | write width off v =>
      simp only [serve, serveWrite] at h
      split at h
      · next ha =>
        simp only [admitted, Bool.and_eq_true, beq_iff_eq] at ha
        obtain ⟨rfl, ha⟩ := ha
        exact .inr (.inr (.inl ⟨off, v, rest, rfl, ha, (Host.Outcome.next.inj h).symm⟩))
      · cases h
    | poll => exact .inr (.inr (.inr (.inl ⟨rest, rfl, (Host.Outcome.next.inj h).symm⟩)))
    | skipIfErr n => exact .inr (.inr (.inr (.inr (.inl ⟨n, rest, rfl, (Host.Outcome.next.inj h).symm⟩))))
    | assertReset => exact .inr (.inr (.inr (.inr (.inr (.inl ⟨rest, rfl, (Host.Outcome.next.inj h).symm⟩)))))
    | releaseReset => exact .inr (.inr (.inr (.inr (.inr (.inr ⟨rest, rfl, (Host.Outcome.next.inj h).symm⟩)))))

/-- A block at its reset values reads 0 everywhere (10_state.md R62). -/
theorem readReg_of_atReset {s : State} (h : s.AtReset) (r : Reg) : s.readReg r = 0 := by
  obtain ⟨_, _, _, _, _, _, rfl⟩ := h
  cases r with
  | din i => simp [State.readReg, State.reset]
  | kin i => simp [State.readReg, State.reset]
  | dout i => simp [State.readReg, State.doutWord, State.reset, wordOfBytes]
  | status => simp [State.readReg, State.statusWord, State.fin, ErrCode.code, State.reset]
  | ctrHi => simp [State.readReg, hi32, State.reset]
  | cmd | cfg | ctrLo | ctrinLo | ctrinHi | reserved => rfl

/-- Whatever is changed of the outside world's fields, the block stays at its reset values. -/
theorem atReset_hardwareReset (s : State) : s.hardwareReset.AtReset := ⟨_, _, _, _, _, _, rfl⟩

theorem atReset_takeInput {s : State} (h : s.AtReset) (rest : List HostOp) : (s.takeInput rest).AtReset := by
  obtain ⟨_, _, _, _, _, _, rfl⟩ := h
  exact ⟨_, _, _, _, _, _, rfl⟩

/-- Everything a step can answer while hardware reset is asserted: the block at its reset values, reads answered by 0, POLL over at
once, and the input asserted until it is released (70_reset_and_hazards.md R250). -/
theorem heldStep_cases {s t : State} (h : heldStep s = .next t) :
    t.AtReset ∧ (s.host = [] ∧ t = s.hardwareReset
      ∨ ∃ op rest, s.host = op :: rest
          ∧ (t = (s.hardwareReset.takeInput rest).reply 0 ∨ t = s.hardwareReset.takeInput rest
            ∨ op = .releaseReset ∧ t = (s.hardwareReset.takeInput rest).releaseReset)) := by
  unfold heldStep at h
  cases hh : s.host with
  | nil =>
    rw [hh] at h
    cases h
    exact ⟨atReset_hardwareReset s, .inl ⟨rfl, rfl⟩⟩
  | cons op rest =>
    rw [hh] at h
    have ha := atReset_takeInput (atReset_hardwareReset s) rest
    have hr : ((s.hardwareReset.takeInput rest).reply 0).AtReset := ⟨_, _, _, _, _, _, rfl⟩
    have h0 : (s.hardwareReset.takeInput rest).statusWord = 0 := readReg_of_atReset ha .status
    cases op with
    | read width off =>
      simp only [serveHeld, serveRead, readReg_of_atReset ha] at h
      split at h
      · cases h; exact ⟨hr, .inr ⟨_, rest, rfl, .inl rfl⟩⟩
      · cases h
    | write width off v =>
      simp only [serveHeld, serveHeldWrite] at h
      split at h
      · cases h; exact ⟨ha, .inr ⟨_, rest, rfl, .inr (.inl rfl)⟩⟩
      · cases h
    | poll =>
      simp [serveHeld, State.pollOnce, h0] at h
      exact h ▸ ⟨hr, .inr ⟨_, rest, rfl, .inl rfl⟩⟩
    | skipIfErr n =>
      simp [serveHeld, State.stopOnErr, h0] at h
      exact h ▸ ⟨hr, .inr ⟨_, rest, rfl, .inl rfl⟩⟩
    | assertReset => cases h; exact ⟨ha, .inr ⟨_, rest, rfl, .inr (.inl rfl)⟩⟩
    | releaseReset => cases h; exact ⟨⟨_, _, _, _, _, _, rfl⟩, .inr ⟨_, rest, rfl, .inr (.inr ⟨rfl, rfl⟩)⟩⟩

/-- Everything a step can answer. -/
theorem step_cases {s t : State} (h : step s = .next t) :
    (s.resetIn = true ∧ heldStep s = .next t) ∨ (s.engineTurn = true ∧ engineStep s = .next t)
      ∨ (s.resetIn = false ∧ s.engineTurn = false ∧ hostStep s = .next t) := by
  cases hr : s.resetIn with
  | true => exact .inl ⟨rfl, by rw [← step_of_resetIn hr]; exact h⟩
  | false =>
    cases he : s.engineTurn with
    | true => exact .inr (.inl ⟨rfl, by rw [← step_of_engineTurn he]; exact h⟩)
    | false => exact .inr (.inr ⟨rfl, rfl, by rw [← step_of_hostTurn hr he]; exact h⟩)

/-! ## The window -/

/-- STATUS bit by bit (10_state.md R53). -/
theorem statusWord_getLsbD (s : State) (i : Nat) : s.statusWord.getLsbD i =
    if i = 0 then s.busy else if i = 1 then s.ctx else if i = 2 then s.fin else if i = 3 then s.ovr
    else if i < 8 then s.err.code.getLsbD (i - 4) else s.dlen.getLsbD (i - 8) := by
  simp only [State.statusWord, BitVec.getLsbD_append, BitVec.getLsbD_zero, BitVec.getLsbD_ofBool]
  by_cases h : i < 14
  · interval_cases i <;> simp
  · have h8 : s.dlen.getLsbD (i - 8) = false := BitVec.getLsbD_of_ge _ _ (by omega)
    rw [h8]
    repeat' split
    all_goals first | rfl | omega

/-- CFG of a context bit by bit (10_state.md R55). -/
theorem cfgWord_getLsbD (s : State) (h : s.ctx = true) (i : Nat) : s.cfgWord.getLsbD i =
    if i < 6 then s.outlen.getLsbD i else if i < 8 then false else s.keylen.getLsbD (i - 8) := by
  simp only [State.cfgWord, h, if_true, BitVec.getLsbD_append, BitVec.getLsbD_zero]
  by_cases h : i < 14
  · interval_cases i <;> simp
  · have h8 : s.keylen.getLsbD (i - 8) = false := BitVec.getLsbD_of_ge _ _ (by omega)
    rw [h8]
    repeat' split
    all_goals first | rfl | omega

/-- A write while a command runs changes OVR only (20_memory.md R76). -/
theorem writeReg_of_busy {s : State} (h : s.busy = true) (v : Word) (r : Reg) :
    ∃ o, s.writeReg v r = { s with ovr := o } := by
  have hid (s' : State) : s.ifIdle s' = { s with ovr := true } := if_pos h
  have hself : ∃ o, s = { s with ovr := o } := ⟨s.ovr, rfl⟩
  cases r with
  | status =>
    simp only [State.writeReg, State.writeStatus]
    split
    · exact ⟨false, rfl⟩
    · exact hself
  | cfg | ctrLo | ctrHi | dout | reserved => exact hself
  | cmd | ctrinLo | ctrinHi | din | kin => exact ⟨true, hid _⟩

/-- A read shows nothing of H, BUF, SKEY, PEND or the outside world's fields (10_state.md R64). -/
theorem readReg_of_visible {s t : State} (hctr : s.ctr = t.ctr) (hol : s.outlen = t.outlen) (hkl : s.keylen = t.keylen)
    (hctx : s.ctx = t.ctx) (hdout : s.dout = t.dout) (hdlen : s.dlen = t.dlen) (hbusy : s.busy = t.busy)
    (herr : s.err = t.err) (hovr : s.ovr = t.ovr) (hdin : s.din = t.din) (hkin : s.kin = t.kin)
    (hlo : s.ctrinLo = t.ctrinLo) (hhi : s.ctrinHi = t.ctrinHi) (r : Reg) : s.readReg r = t.readReg r := by
  cases r <;>
    simp [State.readReg, State.statusWord, State.cfgWord, State.doutWord, State.fin, hctr, hol, hkl, hctx, hdout, hdlen,
      hbusy, herr, hovr, hdin, hkin, hlo, hhi]

/-- The addresses of the window are the offsets (20_memory.md R70). -/
theorem offsetOf_addrOf (off : BitVec 8) : offsetOf (addrOf off) = some off := by
  have := off.isLt
  unfold offsetOf addrOf
  rw [if_pos (by omega)]
  simp

/-- No address outside BASE..BASE+0xFF is one of the window's (20_memory.md R70). -/
theorem offsetOf_eq_none (addr : Nat) (h : addr < Config.base ∨ Config.base + 256 ≤ addr) : offsetOf addr = none := by
  unfold offsetOf
  rw [if_neg (by omega)]

/-! ## Pseudo-commands -/

/-- LOAD writes one word for every four bytes begun (30_encoding.md R108). -/
theorem wordsOfBytes_length (bytes : List Byte) : (wordsOfBytes bytes).length = (bytes.length + 3) / 4 := by
  induction bytes using wordsOfBytes.induct with
  | case1 | case2 | case3 | case4 => simp [wordsOfBytes]
  | case5 b0 b1 b2 b3 rest ih =>
    simp only [wordsOfBytes, List.length_cons, ih]
    omega

/-- A chunk has an expansion exactly when it is of 1 to 64 bytes (30_encoding.md R109): its LOAD always fits. -/
theorem streamChunk_isSome (c : List Byte) : (streamChunk c).isSome = legalChunk c := by
  unfold streamChunk
  split
  · next h =>
    have hc : 1 ≤ c.length ∧ c.length ≤ 64 := by simpa [legalChunk] using h
    rw [load, if_pos (by rw [wordsOfBytes_length, show (0x40 : BitVec 8).toNat = 64 from rfl]; omega), h]
    rfl
  · next h => simp [h]

/-- A stream has an expansion exactly when every chunk is of 1 to 64 bytes (30_encoding.md R109). -/
theorem streamChunks_isSome (chunks : List (List Byte)) : (streamChunks chunks).isSome = chunks.all legalChunk := by
  induction chunks with
  | nil => rfl
  | cons c rest ih =>
    rw [List.all_cons, ← ih, ← streamChunk_isSome, streamChunks]
    cases streamChunk c <;> cases streamChunks rest <;> rfl

end Sys2Proof.Machine
end

