-- ==== Sys2Proof/Laws/PerInstr.lean ====
section
/-! SUPPORT. Statements made per instruction: the family EncodeOpcode, that a command's word carries its opcode in bits 3:0 and
zeros in the reserved bits 7:4 (30_encoding.md R90, R95). -/

namespace Sys2Proof.Laws.EncodeOpcode

/-- The low byte of a command word is its opcode (30_encoding.md R90). -/
def Statement (i : Instr) : Prop := (encode i).extractLsb' 0 8 = i.opcode.setWidth 8

theorem init (outlen keylen : BitVec 6) : Statement (.init outlen keylen) := by
  apply BitVec.eq_of_getLsbD_eq
  intro j hj
  simp only [encode, Instr.opcode]
  interval_cases j <;> simp

theorem update (nbytes : BitVec 7) : Statement (.update nbytes) := by
  apply BitVec.eq_of_getLsbD_eq
  intro j hj
  simp only [encode, Instr.opcode]
  interval_cases j <;> simp

theorem final : Statement .final := by
  unfold Statement
  decide

theorem finalReset : Statement .finalReset := by
  unfold Statement
  decide

theorem reset : Statement .reset := by
  unfold Statement
  decide

theorem compress (last : Bool) : Statement (.compress last) := by
  unfold Statement
  cases last <;> decide

end Sys2Proof.Laws.EncodeOpcode
end

