-- ==== Sys2Proof/Tests/Slice0.lean ====
section
/-! SUPPORT. Tests of the model on values the spec writes out, and for every statement with hypotheses a witness that meets
them. Each test names the place in spec/ its expected value comes from. -/

namespace Sys2Proof.Tests

open Sys2Proof.Machine

-- One theorem is checked at a time: with many of them waiting side by side the check runs out of memory for their threads.
set_option Elab.async false

/-- A check on the next state of an answer. -/
def nextIs (o : Result) (p : State → Bool) : Bool :=
  match o with
  | .next s => p s
  | .fault _ => false
  | .refused _ => false

/-- Whether an answer is this refusal. -/
def refusedWith (o : Result) (r : Refusal) : Bool :=
  match o with
  | .next _ => false
  | .fault _ => false
  | .refused r' => r' == r

/-- The state an answer gives, or the reset state. -/
def after (o : Result) : State :=
  match o with
  | .next s => s
  | .fault _ => State.reset
  | .refused _ => State.reset

/-! ## Well-formedness (30_encoding.md R101, R105) -/

theorem test_update_65_is_ill_formed : (Instr.update 65).wellFormed = false := by decide

theorem test_update_64_is_well_formed : (Instr.update 64).wellFormed = true := by decide

theorem test_init_out_of_range_is_well_formed : (Instr.init 0 33).wellFormed = true := by decide

theorem test_program_with_reserved_word_is_ill_formed : programWellFormed [wr 0x00 0x00004102] = false := by decide

theorem test_program_with_narrow_access_is_ill_formed : programWellFormed [.read .byte 0x04] = false := by decide

theorem test_hash_is_well_formed : (hashProgram [[0x61, 0x62, 0x63]]).map programWellFormed = some true := by decide

/-! ## Decoding, words written out from the formats of 30_encoding.md R91 to R94 -/

/-- R92: reserved 10 bits, KEYLEN = 32, reserved 2 bits, OUTLEN = 32, reserved 4 bits, OP = 1. -/
theorem test_decode_init : decode 0b0000000000_100000_00_100000_0000_0001 = .ok (.init 32 32) := by decide

/-- R93: reserved 17 bits, NBYTES = 64, reserved 4 bits, OP = 2. -/
theorem test_decode_update : decode 0b00000000000000000_1000000_0000_0010 = .ok (.update 64) := by decide

/-- R91: reserved 28 bits, OP = 3. -/
theorem test_decode_final : decode 0b0000000000000000000000000000_0011 = .ok .final := by decide

/-- R91: reserved 28 bits, OP = 4. -/
theorem test_decode_final_reset : decode 0b0000000000000000000000000000_0100 = .ok .finalReset := by decide

/-- R91: reserved 28 bits, OP = 5. -/
theorem test_decode_reset : decode 0b0000000000000000000000000000_0101 = .ok .reset := by decide

/-- R94: reserved 23 bits, LAST = 1, reserved 4 bits, OP = 6. -/
theorem test_decode_compress : decode 0b00000000000000000000000_1_0000_0110 = .ok (.compress true) := by decide

/-- 95_test_vectors.md §8, rows 6 to 13. -/
theorem test_decode_reserved :
    [0x00000000, 0x00000007, 0x0000000F, 0x00004102, 0x00000103, 0x00000013, 0x00002011, 0x00000206].map decode
      = [.error .reservedOpcode, .error .reservedOpcode, .error .reservedOpcode, .error .nbytesOutOfRange,
        .error .reservedBits, .error .reservedBits, .error .reservedBits, .error .reservedBits] := by decide

/-- 30_encoding.md R107, the examples. -/
theorem test_encode_examples :
    [Instr.init 32 0, .init 32 32, .init 16 0, .update 3, .update 64, .compress true].map encode
      = [0x00002001, 0x00202001, 0x00001001, 0x00000302, 0x00004002, 0x00000106] := by decide

/-- The host's two entry points on INIT 32, 0. -/
theorem test_decode_table_word : decodeTableWord 32 0x00002001 = some (.init 32 0) := by decide

theorem test_fetch_word : nextIs (step (State.reset.withFetchWord 32 0x00002001)) (·.statusWord == 0x00000002) = true := by
  decide +kernel

/-! ## F (95_test_vectors.md §2) -/

/-- rotr32 by every amount the spec uses. -/
theorem test_rotr32 :
    [rotr32 0x00000001 16, rotr32 0x00000001 7, rotr32 0x80000000 12, rotr32 0x12345678 8]
      = [0x00010000, 0x02000000, 0x00080000, 0x78123456] := by decide

/-- The words a, b, c, d = 0, 4, 8, 12 of a working vector after G. -/
def mixed (a b c d x y : Word) : List Word :=
  let v : Vector Word 16 := #v[a, 0, 0, 0, b, 0, 0, 0, c, 0, 0, 0, d, 0, 0, 0]
  let v := mixG 0 4 8 12 x y v
  [v[0], v[4], v[8], v[12]]

theorem test_mix_all_ones :
    mixed 0xFFFFFFFF 0xFFFFFFFF 0xFFFFFFFF 0xFFFFFFFF 0xFFFFFFFF 0xFFFFFFFF
      = [0x000FFFDC, 0x3DB81BE4, 0xDC020DFE, 0xDC000DFF] := by decide +kernel

theorem test_mix_abc_first :
    mixed 0x6B08E647 0x510E527F 0x6A09E667 0x510E527C 0x00636261 0
      = [0xD6C0C1DF, 0x7F898693, 0xDE856F07, 0xAB1F9B2C] := by decide +kernel

/-- H0(32, 0). -/
def h0 : Vector Word 8 :=
  #v[0x6B08E647, 0xBB67AE85, 0x3C6EF372, 0xA54FF53A, 0x510E527F, 0x9B05688C, 0x1F83D9AB, 0x5BE0CD19]

/-- The block of "abc". -/
def abcBlock : Vector Byte 64 := Vector.ofFn fun i : Fin 64 => ([0x61, 0x62, 0x63] : List Byte).getD i.val 0

/-- The digest of "abc" as DOUT words (V1.1). -/
def abcWords : Vector Word 8 :=
  #v[0x8C5E8C50, 0xE2147C32, 0xA32BA7E1, 0x2F45EB4E, 0x208B4537, 0x293AD69E, 0x4C9B994D, 0x82596786]

/-- Row r0 of the trace of the "abc" compression. -/
theorem test_first_round_of_abc :
    mixRound (messageWords abcBlock) (workingVector h0 3 true) 0
      = #v[0x16A3242E, 0xD7B5E238, 0xCE8CE24B, 0x927AEDE1, 0xA7B430D9, 0x93A4A14E, 0xA44E7C31, 0x41D4759B,
        0x95BF33D3, 0x9A99C181, 0x608A3A6B, 0xB666383E, 0x7A8DD50F, 0xBE378ED7, 0x353D1EE6, 0x3BB44C6B] := by
  decide +kernel

/-- Row h' of the trace. -/
theorem test_compress_abc : compressF h0 abcBlock 3 true = abcWords := by decide +kernel

/-- 95_test_vectors.md §3: the high counter word matters. -/
theorem test_compress_high_counter :
    compressF h0 (Vector.replicate 64 0) 0x100000000 false
      = #v[0x59EEB13A, 0xB6843D0B, 0xA311973A, 0x0B4E4C44, 0x2DBC4FE3, 0xF7F3B7D2, 0x301B7CDD, 0x683606E7] := by
  decide +kernel

/-! ## The commands -/

/-- A live context of OUTLEN = 32 without a key, as INIT 32, 0 leaves it (41_streaming_state_manager.md R155). -/
def liveState : State := { State.reset with ctx := true, outlen := 32, h := h0 }

/-- The bytes 00, 01, .. 1f in KIN (95_test_vectors.md P2). -/
def keyWords : Vector Word 8 :=
  #v[0x03020100, 0x07060504, 0x0B0A0908, 0x0F0E0D0C, 0x13121110, 0x17161514, 0x1B1A1918, 0x1F1E1D1C]

/-- The keyed context of P2. -/
def keyedState : State := after (exec (.init 32 32) { State.reset with kin := keyWords })

/-- The context of P1 after UPDATE 3. -/
def abcState : State := { liveState with buf := abcBlock, ctr := 3 }

/-- A context FINAL has poisoned. -/
def poisonedState : State := { liveState with ctr := sentinel }

/-- 41_streaming_state_manager.md R155, worked example, from hardware reset. -/
theorem test_init_unkeyed : nextIs (exec (.init 32 0) State.reset) (· == liveState) = true := by decide +kernel

/-- 95_test_vectors.md §5 and P2: H0[0](32, 32), CFG, CTR, the last key byte in BUF and the first padding byte. -/
theorem test_init_keyed :
    (keyedState.h[0] == 0x6B08C647 && keyedState.cfgWord == 0x00002020 && keyedState.ctr == 64
      && keyedState.buf[31] == 0x1F && keyedState.buf[32] == 0) = true := by decide +kernel

/-- P1: UPDATE 3 of "abc" buffers three bytes without a compression. -/
theorem test_update_abc :
    nextIs (exec (.update 3) { liveState with din := Vector.replicate 16 0x00636261 })
      (· == { abcState with din := Vector.replicate 16 0x00636261 }) = true := by decide +kernel

/-- 95_test_vectors.md §4: from CTR = 2^64 − 65, UPDATE 64 overflows and UPDATE 63 ends at 2^64 − 2. -/
theorem test_update_near_overflow :
    (nextIs (exec (.update 64) { liveState with ctr := 0xFFFFFFFFFFFFFFBF }) (·.err == .counterOverflow)
      && nextIs (exec (.update 63) { liveState with ctr := 0xFFFFFFFFFFFFFFBF })
        (fun t => t.err == .success && t.ctr == 0xFFFFFFFFFFFFFFFE && t.h != h0)) = true := by decide +kernel

/-- P1: FINAL of "abc". -/
theorem test_final_abc :
    nextIs (exec .final abcState) (fun t => t.dout == ser8 abcWords && t.statusWord == 0x00002006 && t.buf == abcBlock)
      = true := by decide +kernel

/-- 95_test_vectors.md §8, row 17. -/
theorem test_final_twice : nextIs (exec .final { poisonedState with dlen := 32 }) (·.statusWord == 0x00002036) = true := by
  decide +kernel

/-- P2: FINAL_RESET of the keyed empty message. -/
theorem test_final_reset_keyed :
    nextIs (exec .finalReset keyedState) (fun t =>
      t.dout == ser8 #v[0x7D99A848, 0x6B8707A4, 0xD9C0793D, 0x3BAD2523, 0x54B7CB89, 0x1AB76AD8, 0xD37A04EE, 0x492CFD45]
        && t.statusWord == 0x00002002 && t.ctr == 64 && t.buf == keyedState.buf && t.h == keyedState.h) = true := by
  decide +kernel

/-- 41_streaming_state_manager.md R178, worked example. -/
theorem test_reset_after_final :
    nextIs (exec .reset { poisonedState with dlen := 32 }) (fun t => t.statusWord == 0x00002002 && t.ctr == 0) = true := by
  decide +kernel

/-- 95_test_vectors.md §7: RESET without a context. -/
theorem test_reset_without_context : nextIs (exec .reset State.reset) (·.statusWord == 0x00000040) = true := by
  decide +kernel

/-- P4: COMPRESS 1 without a context. -/
theorem test_compress_without_context :
    nextIs (exec (.compress true)
        { State.reset with kin := h0, din := (Vector.replicate 16 0).set 0 0x00636261, ctrinLo := 3 })
      (fun t => t.dout == ser8 abcWords && t.statusWord == 0x00002000 && t.cfgWord == 0 && t.ctr == 0) = true := by
  decide +kernel

/-- P5 and 95_test_vectors.md §6: the bytes beyond OUTLEN = 16 are forced to 0. -/
theorem test_truncation :
    nextIs (exec .final { liveState with outlen := 16, h := h0.set 0 0x6B08E677 }) (fun t =>
      t.doutWord 0 == 0x6F0D5564 && t.doutWord 3 == 0x0C20E0AD && t.doutWord 4 == 0 && t.h[4] == 0xA4A39E17) = true := by
  decide +kernel

/-! ## The port -/

/-- A block running INIT 32, 0, with inputs to make. -/
def busyState (ops : List HostOp) : State := { State.reset with busy := true, pend := 0x00002001, wait := 3, host := ops }

/-- 95_test_vectors.md §8, overrun: a write made while busy is dropped, STATUS = 0x00000009 and DIN0 = 0. -/
theorem test_overrun :
    nextIs (step (busyState [wr 0x40 0x12345678])) (fun t => t.statusWord == 0x00000009 && t.din[0] == 0) = true := by
  decide +kernel

/-- The same, W1C: OVR is cleared by bit 3 and by nothing else. -/
theorem test_status_write :
    (nextIs (step { State.reset with ovr := true, ctx := true, host := [wr 0x04 0x00000008] }) (·.statusWord == 0x00000002)
      && nextIs (step { State.reset with ovr := true, ctx := true, host := [wr 0x04 0x00000000] })
        (·.statusWord == 0x0000000A)) = true := by decide +kernel

/-- 20_memory.md R72: a misaligned access is refused. -/
theorem test_misaligned_is_refused :
    refusedWith (step { State.reset with host := [rd 0x41] }) (.unadmittedAccess .word 0x41) = true := by decide +kernel

/-- 60_exceptions.md R238: hardware reset while busy abandons the pending INIT. -/
theorem test_hardware_reset_while_busy : nextIs (step (busyState [.assertReset])) (· == { State.reset with resetIn := true }) = true := by
  decide +kernel

/-- A block held by its reset input, with inputs to make. -/
def heldState (ops : List HostOp) : State := { State.reset with resetIn := true, host := ops }

/-- 70_reset_and_hazards.md R250: while reset is asserted a write to CMD or to DIN leaves the R62 values, and a read gives 0. -/
theorem test_write_under_reset :
    (∀ off ∈ [0x00, 0x04, 0x40, (0x9C : BitVec 8)], nextIs (step (heldState [wr off 0x00002001])) (· == heldState []) = true)
      ∧ nextIs (step { liveState with resetIn := true, host := [rd 0x04] })
          (· == { heldState [] with replies := [0] }) = true := by decide +kernel

/-- R250, R251: at its deassertion the block has the R62 values, and a write to CMD is then accepted. -/
theorem test_release_of_reset :
    nextIs (step (heldState [.releaseReset])) (· == State.reset) = true
      ∧ nextIs (runFor 2 (heldState [.releaseReset, wr 0x00 3])) (·.statusWord == 1) = true := by decide +kernel

/-- 30_encoding.md R110, written out: HASH of "abc" up to the reads of DOUT. -/
theorem test_hash_expansion :
    (hashProgram [[0x61, 0x62, 0x63]]).map (·.take 8)
      = some [wr 0x00 0x00002001, .poll, wr 0x40 0x00636261, wr 0x00 0x00000302, .poll, wr 0x00 0x00000003, .poll, rd 0xA0] := by
  decide

/-- 30_encoding.md R108, R109 (log entry 18): a LOAD up to offset 0xFC and one past it, chunks of 64, 65, 131 and 0 bytes. -/
theorem test_expansions_that_do_not_exist :
    (load 0xFC (List.replicate 4 0)).isSome = true ∧ (load 0xFC (List.replicate 5 0)).isSome = false
      ∧ [64, 65, 131, 0].map (fun n => (streamChunks [List.replicate n 0]).isSome) = [true, false, false, false] := by
  decide +kernel

/-- 30_encoding.md R111: after a failing INIT the rest of HASH_INTO is left out. -/
theorem test_hash_into_stops :
    nextIs (step { State.reset with err := .invalidOutputLength, host := .skipIfErr 2 :: [rd 0x04, rd 0xA0] })
      (fun t => t.host == [] && t.replies == [0x00000010]) = true := by decide +kernel

/-! ## Witnesses: for each statement with hypotheses, a concrete state and operands that meet them all -/

theorem witness_DecodeOfEncodeIsTheCommand : (Instr.update 64).wellFormed = true := by decide

theorem witness_DecodedWordIsItsEncoding : decode 0x00004002 = .ok (.update 64) := by decide

/-- One word for each clause: reserved opcodes at both ends, a reserved bit 4, the reserved ranges of formats I, U, N and C,
and NBYTES at 65 and 127. -/
theorem witness_ReservedWordCompletesWithInvalidCommand :
    ∀ w ∈ [0x00000000, 0x00000007, 0x0000000F, 0x00000013, 0x00004001, 0x00400001, 0x00008002, 0x00004102, 0x00007F02,
        0x00000103, 0x00000104, 0x80000005, (0x00000206 : Word)],
      ({ State.reset with busy := true, pend := w } : State).engineTurn = true ∧ ∃ r, decode w = .error r := by
  intro w hw
  simp only [List.mem_cons, List.not_mem_nil, or_false] at hw
  rcases hw with rfl | rfl | rfl | rfl | rfl | rfl | rfl | rfl | rfl | rfl | rfl | rfl | rfl <;>
    exact ⟨by decide +kernel, _, rfl⟩

theorem witness_HardwareResetInputResetsTheBlock : (busyState [.assertReset]).Serves .assertReset [] := by decide +kernel

/-- Each alternative: asserted before the step, and after it; and a context cleared. -/
theorem witness_HardwareResetHoldsTheResetState :
    nextIs (step (heldState [.releaseReset])) (fun t => !t.resetIn) = true
      ∧ nextIs (step { liveState with host := [.assertReset] }) (fun t => t.resetIn && !t.ctx) = true := by decide +kernel

/-- Each clause, the accesses at both ends of the window. -/
theorem witness_AccessesUnderResetFindTheResetState :
    (heldState []).resetIn = true ∧ (heldState []).host = []
      ∧ (∀ off ∈ [0x00, (0xFC : BitVec 8)], (heldState [rd off]).host = .read .word off :: [] ∧ off.toNat % 4 = 0
          ∧ (heldState [wr off 1]).host = .write .word off 1 :: [])
      ∧ (heldState [.releaseReset]).host = .releaseReset :: [] := by decide

theorem witness_EveryStepKeepsTheInvariant :
    liveState.Inv ∧ ∃ t, step { liveState with busy := true, pend := 3 } = .next t :=
  ⟨by decide +kernel, _, rfl⟩

theorem witness_StepRunsTheDecodedCommand :
    (State.reset.withFetchWord 32 0x00002001).resetIn = false
      ∧ (State.reset.withFetchWord 32 0x00002001).busy = true ∧ (State.reset.withFetchWord 32 0x00002001).wait = 0
      ∧ decode (State.reset.withFetchWord 32 0x00002001).pend = .ok (.init 32 0)
      ∧ ∃ t, exec (.init 32 0) (State.reset.withFetchWord 32 0x00002001) = .next t :=
  ⟨by decide +kernel, by decide +kernel, by decide +kernel, by decide +kernel, exec_answers_next _ _⟩

theorem witness_StepRunsTheDecodedCommand_hostNotReady :
    (busyState [rd 0x41]).resetIn = false ∧ (busyState [rd 0x41]).busy = true ∧ (busyState [rd 0x41]).hostReady = false
      ∧ decode (busyState [rd 0x41]).pend = .ok (.init 32 0) := by decide +kernel

theorem witness_PlacedWordIsTheNextCommand :
    decode 0x00002001 = .ok (.init 32 0)
      ∧ ∃ t, exec (.init 32 0) { State.reset with pend := 0x00002001, busy := true, resetIn := false, wait := 0 } = .next t :=
  ⟨by decide, exec_answers_next _ _⟩

theorem witness_AcceptedCommandCompletes :
    (busyState [rd 0x04]).resetIn = false ∧ (busyState [rd 0x04]).busy = true := by decide

/-- One Host step while the command keeps running. -/
theorem witness_RunningCommandIsNotDisturbed :
    nextIs (runFor 0 (busyState [wr 0x40 1])) (·.busy) = true
      ∧ nextIs (runFor 1 (busyState [wr 0x40 1])) (fun t => t.busy && t.ovr) = true := by decide +kernel

theorem witness_IdleBlockKeepsItsState :
    liveState.resetIn = false ∧ liveState.busy = false ∧ liveState.host = [] := by decide

theorem witness_CmdWriteIsAccepted :
    ({ State.reset with host := [wr 0x00 3] } : State).resetIn = false
      ∧ ({ State.reset with host := [wr 0x00 3] } : State).busy = false
      ∧ ({ State.reset with host := [wr 0x00 3] } : State).host = .write .word 0x00 3 :: [] := by decide

/-- The guarded offsets at the ends of their ranges. -/
theorem witness_WriteWhileBusyIsDropped :
    ∀ off ∈ [0x00, 0x18, 0x1C, 0x40, 0x7C, 0x80, (0x9C : BitVec 8)],
      (busyState [wr off 1]).Serves (.write .word off 1) [] ∧ (busyState [wr off 1]).busy = true ∧ GuardedOffset off := by
  decide +kernel

/-- Every clause: OVR rises, falls by W1C, falls by hardware reset. -/
theorem witness_OvrSetByDroppedWriteClearedByHost :
    nextIs (step (busyState [wr 0x9C 1])) (fun t => !(busyState [wr 0x9C 1]).ovr && t.ovr) = true
      ∧ ((busyState [wr 0x9C 1]).Serves (.write .word 0x9C 1) [] ∧ GuardedOffset 0x9C)
      ∧ nextIs (step { busyState [wr 0x04 8] with ovr := true }) (fun t => !t.ovr) = true
      ∧ ({ busyState [wr 0x04 8] with ovr := true } : State).Serves (.write .word 0x04 8) []
      ∧ nextIs (step { busyState [.assertReset] with ovr := true }) (fun t => !t.ovr) = true := by decide +kernel

theorem witness_StatusReadsItsFieldsAndClearsOvr :
    (busyState [wr 0x04 8]).Serves (.write .word 0x04 8) [] ∧ sentinel.toNat = 2 ^ 64 - 1
      ∧ poisonedState.statusWord.getLsbD 2 = true := by decide +kernel

theorem witness_ReadsHaveNoSideEffect :
    (busyState [rd 0xFC]).Serves (.read .word 0xFC) [] ∧ (0xFC : BitVec 8).toNat % 4 = 0 := by decide +kernel

/-- The staging offsets at the ends of their ranges, and another offset. -/
theorem witness_StagingWriteReadsBack :
    ∀ off ∈ [0x18, 0x1C, 0x40, 0x7C, 0x80, (0x9C : BitVec 8)],
      ({ State.reset with host := [wr off 1] } : State).resetIn = false
        ∧ ({ State.reset with host := [wr off 1] } : State).busy = false ∧ StagingOffset off
        ∧ (0x04 : BitVec 8).toNat % 4 = 0 ∧ (0x04 : BitVec 8) ≠ off := by decide

/-- The reserved offsets at the ends of their ranges, read and written. -/
theorem witness_ReservedOffsetsReadZeroIgnoreWrites :
    ∀ off ∈ [0x0C, 0x20, 0x3C, 0xC0, (0xFC : BitVec 8)],
      ReservedOffset off ∧ (busyState [rd off]).Serves (.read .word off) []
        ∧ (busyState [wr off 1]).Serves (.write .word off 1) [] := by decide +kernel

/-- The read-only offsets at the ends of their ranges. -/
theorem witness_ReadOnlyRegistersIgnoreWrites :
    ∀ off ∈ [0x08, 0x10, 0x14, 0xA0, (0xBC : BitVec 8)],
      (busyState [wr off 1]).Serves (.write .word off 1) [] ∧ ReadOnlyOffset off := by decide +kernel

theorem witness_WindowReadsTheNamedState : State.reset.ctx = false ∧ liveState.ctx = true := by decide

/-- Each clause: an admitted access at the top of the window, one refused for its width, one for its alignment; idle, held by reset
and busy. -/
theorem witness_OnlyAlignedWordAccessesAreAdmitted :
    ((busyState [rd 0xFC]).host = .read .word 0xFC :: [] ∧ (0xFC : BitVec 8).toNat % 4 = 0)
      ∧ (({ State.reset with host := [.write .half 0xFC 1] } : State).busy = false
          ∧ ¬ (Width.half = .word ∧ (0xFC : BitVec 8).toNat % 4 = 0))
      ∧ ((heldState [rd 0xFF]).resetIn = true ∧ (heldState [rd 0xFF]).host = .read .word 0xFF :: [])
      ∧ ((busyState [rd 0xFF]).busy = true ∧ (busyState [rd 0xFF]).resetIn = false ∧ ¬ (Width.word = .word ∧ (0xFF : BitVec 8).toNat % 4 = 0)) := by
  decide

theorem witness_PollRepeatsWhileBusy :
    (busyState [.poll]).Serves .poll [] ∧ ({ State.reset with host := [.poll] } : State).Serves .poll [] := by
  decide +kernel

/-- Two states that differ in their secrets, completing UPDATE 1. -/
theorem witness_HiddenStateReachesHostOnlyByDigest :
    let s : State := { keyedState with busy := true, pend := 0x00000102 }
    let s' : State := { s with skey := Vector.replicate 32 0x77, h := h0 }
    s.public = s'.public ∧ s ≠ s' ∧ ¬ s.Completes .final ∧ ¬ s.Completes .finalReset
      ∧ nextIs (step s) (fun t => t.err == .success) = true := by decide +kernel

/-- Every clause: BUSY rises by a write to CMD, falls by completion and by hardware reset. -/
theorem witness_BusyFromAcceptanceToCompletion :
    (nextIs (step { State.reset with host := [wr 0x00 3], latencies := [2] }) (·.busy) = true
        ∧ ({ State.reset with host := [wr 0x00 3], latencies := [2] } : State).Serves (.write .word 0x00 3) [])
      ∧ ((State.reset.withFetchWord 32 3).engineTurn = true ∧ nextIs (step (State.reset.withFetchWord 32 3)) (!·.busy) = true)
      ∧ nextIs (step (busyState [.assertReset])) (!·.busy) = true := by decide +kernel

theorem witness_ErrWrittenOnlyByCompletion :
    nextIs (step (State.reset.withFetchWord 32 3)) (·.err != State.reset.err) = true := by decide +kernel

/-- Each clause: a context is created, and destroyed. -/
theorem witness_ContextFromInitToHardwareReset :
    nextIs (step (State.reset.withFetchWord 32 0x00002001)) (·.ctx) = true
      ∧ nextIs (step { liveState with host := [.assertReset] }) (!·.ctx) = true := by decide +kernel

/-- Each clause: poisoned by FINAL, and returned by RESET, by INIT and by hardware reset. -/
theorem witness_PoisonedOnlyByFinal :
    (liveState.fin = false ∧ nextIs (step (liveState.withFetchWord 32 3)) (·.fin) = true)
      ∧ (poisonedState.fin = true ∧ nextIs (step (poisonedState.withFetchWord 32 5)) (!·.fin) = true)
      ∧ nextIs (step (poisonedState.withFetchWord 32 0x00002001)) (!·.fin) = true
      ∧ nextIs (step { poisonedState with host := [.assertReset] }) (!·.fin) = true := by decide +kernel

/-- Each alternative: FINAL, FINAL_RESET, COMPRESS, INIT (over a digest) and hardware reset change the output. -/
theorem witness_OutputPersists :
    (∀ w ∈ [3, 4, (6 : Nat)], nextIs (step (abcState.withFetchWord 32 w)) (fun t => t.dlen != abcState.dlen) = true)
      ∧ nextIs (step ({ liveState with dlen := 32 }.withFetchWord 32 0x00001001)) (fun t => t.dlen != 32) = true
      ∧ nextIs (step { liveState with dlen := 32, host := [.assertReset] }) (fun t => t.dlen != 32) = true := by
  decide +kernel

/-- Both clauses: INIT and hardware reset write the lengths; UPDATE, FINAL, FINAL_RESET and RESET run. -/
theorem witness_KeyWrittenOnlyByInit :
    nextIs (step (State.reset.withFetchWord 32 0x00202001)) (fun t => t.keylen != 0 && t.outlen != 0) = true
      ∧ nextIs (step { keyedState with host := [.assertReset] }) (fun t => t.skey != keyedState.skey) = true
      ∧ (∀ i ∈ [Instr.update 1, .final, .finalReset, .reset], nextIs (exec i keyedState) (·.err == .success) = true) := by
  decide +kernel

theorem witness_CommandsLeaveStagingAlone : ∃ t, exec .final abcState = .next t := exec_answers_next _ _

/-- Each kind of offset the statement speaks of, with a command that leaves it alone. -/
theorem witness_CommandsChangeOnlyTheseRegisters :
    (∃ t, exec (.compress true) abcState = .next t) ∧ (∃ t, exec .reset abcState = .next t)
      ∧ (∀ off ∈ [0x00, 0x08, 0x10, 0x14, 0x40, 0xA0, 0xBC, (0xFC : BitVec 8)], off.toNat % 4 = 0 ∧ off ≠ 0x04) :=
  ⟨exec_answers_next _ _, exec_answers_next _ _, by decide⟩

theorem witness_ErrorChangesNothingElse :
    (poisonedState.withFetchWord 32 3).engineTurn = true
      ∧ nextIs (step (poisonedState.withFetchWord 32 3)) (·.err == .useAfterFinalize) = true := by decide +kernel

/-- Each opcode class completes with an error it may raise. -/
theorem witness_ErrorsEachCommandCanRaise :
    ∀ p ∈ [(0x00212001, ErrCode.invalidKeyLength), (0x00000002, .noContext), (0x00000003, .noContext), (0x00000004, .noContext),
        (0x00000005, .noContext), (0x00000206, .invalidCommand), (0x00000000, .invalidCommand),
        ((0x00000007 : Nat), .invalidCommand)],
      (State.reset.withFetchWord 32 p.1).engineTurn = true
        ∧ nextIs (step (State.reset.withFetchWord 32 p.1)) (·.err == p.2) = true := by decide +kernel

/-- Both clauses at the boundaries of their ranges; no pair of lengths falls under both. -/
theorem witness_InitRejectsLengthsOutOfRange :
    ((0 : BitVec 6).toNat = 0 ∧ 32 < (33 : BitVec 6).toNat) ∧ (1 ≤ (1 : BitVec 6).toNat ∧ (32 : BitVec 6).toNat ≤ 32)
      ∧ 32 < (33 : BitVec 6).toNat := by decide

theorem witness_NoContextIsReported :
    State.reset.ctx = false ∧ (Instr.update 0).wellFormed = true ∧ (Instr.update 64).wellFormed = true := by decide

theorem witness_UseAfterFinalizeIsReported :
    (poisonedState.ctx = true ∧ poisonedState.ctr.toNat = 2 ^ 64 - 1 ∧ (Instr.update 0).wellFormed = true)
      ∧ ∃ t, exec .reset poisonedState = .next t :=
  ⟨by decide, exec_answers_next _ _⟩

/-- The smallest counter that overflows, with the most bytes, and the largest live one, with one byte. -/
theorem witness_CounterOverflowIsReported :
    let s : State := { liveState with ctr := 0xFFFFFFFFFFFFFFBF }
    let s' : State := { liveState with ctr := 0xFFFFFFFFFFFFFFFE }
    (s.ctx = true ∧ s.ctr.toNat ≠ 2 ^ 64 - 1 ∧ (64 : BitVec 7).toNat ≤ 64
        ∧ 2 ^ 64 - 1 ≤ s.ctr.toNat + (64 : BitVec 7).toNat)
      ∧ (s'.ctr.toNat ≠ 2 ^ 64 - 1 ∧ 2 ^ 64 - 1 ≤ s'.ctr.toNat + (1 : BitVec 7).toNat)
      ∧ nextIs (exec (.update 64) s) (·.err == .counterOverflow) = true := by decide +kernel

/-- The lengths at the ends of their ranges. -/
theorem witness_InitBuildsTheContext :
    (1 ≤ (1 : BitVec 6).toNat ∧ (1 : BitVec 6).toNat ≤ 32 ∧ (0 : BitVec 6).toNat ≤ 32)
      ∧ (1 ≤ (32 : BitVec 6).toNat ∧ (32 : BitVec 6).toNat ≤ 32) := by decide

theorem witness_InitReplacesTheContextInFull :
    1 ≤ (32 : BitVec 6).toNat ∧ (32 : BitVec 6).toNat ≤ 32 ∧ State.reset.kin = poisonedState.kin
      ∧ State.reset ≠ poisonedState := by decide +kernel

/-- An empty buffer that takes a whole block, and a full one that takes nothing. -/
theorem witness_UpdateWithinTheBlockOnlyBuffers :
    (liveState.ctx = true ∧ liveState.ctr.toNat + (64 : BitVec 7).toNat < 2 ^ 64 - 1
        ∧ occ liveState.ctr + (64 : BitVec 7).toNat ≤ 64)
      ∧ occ keyedState.ctr + (0 : BitVec 7).toNat ≤ 64 := by decide +kernel

/-- A full buffer, with one byte and with a whole block. -/
theorem witness_UpdateAcrossTheBlockCompressesOnce :
    keyedState.ctx = true ∧ keyedState.ctr.toNat + (64 : BitVec 7).toNat < 2 ^ 64 - 1
      ∧ 64 < occ keyedState.ctr + (1 : BitVec 7).toNat ∧ 64 < occ keyedState.ctr + (64 : BitVec 7).toNat := by
  decide +kernel

theorem witness_EmptyUpdateIsNoOp : abcState.ctx = true ∧ abcState.ctr.toNat ≠ 2 ^ 64 - 1 := by decide

theorem witness_LastByteStaysBuffered :
    keyedState.ctx = true ∧ keyedState.ctr.toNat + (64 : BitVec 7).toNat < 2 ^ 64 - 1 ∧ 1 ≤ (1 : BitVec 7).toNat
      ∧ (64 : BitVec 7).toNat ≤ 64 := by decide +kernel

theorem witness_FinalWritesTheDigestAndPoisons :
    (abcState.ctx = true ∧ abcState.ctr.toNat ≠ 2 ^ 64 - 1) ∧ (liveState.ctx = true ∧ liveState.ctr.toNat = 0) := by decide

theorem witness_FinalResetIsFinalThenReset : keyedState.ctx = true ∧ keyedState.ctr.toNat ≠ 2 ^ 64 - 1 := by
  decide +kernel

theorem witness_ResetReseedsTheContext : poisonedState.ctx = true ∧ keyedState.ctx = true := by decide +kernel

/-- The working vector clauses at the ends of their ranges. -/
theorem witness_CounterAndFlagEnterTheirWordsOnly :
    (3 : Fin 8).val < 4 ∧ (7 : Fin 8).val = 7 := by decide

/-- Two column steps, and two diagonal steps. -/
theorem witness_DisjointMixingsCommute :
    (∀ i ∈ [(0 : Fin 16), 4, 8, 12], i ∉ [(1 : Fin 16), 5, 9, 13])
      ∧ ∀ i ∈ [(2 : Fin 16), 7, 8, 13], i ∉ [(3 : Fin 16), 4, 9, 14] := by decide

/-- DIN with the bytes 61 62 63 00, whole. -/
def abcDin : Vector Word 16 := Vector.replicate 16 0x00636261

/-- "abc" in one UPDATE, and byte by byte. -/
theorem witness_StreamSplitDoesNotMatter :
    let a : List Chunk := [(abcDin, 3)]
    let b : List Chunk := [(abcDin, 1), (Vector.replicate 16 0x62, 1), (Vector.replicate 16 0, 0), (Vector.replicate 16 0x63, 1)]
    liveState.ctx = true ∧ (∀ c ∈ a, c.2.toNat ≤ 64) ∧ (∀ c ∈ b, c.2.toNat ≤ 64) ∧ streamBytes a = streamBytes b
      ∧ liveState.ctr.toNat + (streamBytes a).length < 2 ^ 64 - 1 := by decide +kernel

theorem witness_ResetReturnsToTheFreshContext :
    let a : List Chunk := [(abcDin, 64), (abcDin, 1)]
    1 ≤ (32 : BitVec 6).toNat ∧ (32 : BitVec 6).toNat ≤ 32 ∧ (∀ c ∈ a, c.2.toNat ≤ 64)
      ∧ 64 + (streamBytes a).length < 2 ^ 64 - 1 := by decide +kernel

theorem witness_StreamingComputesBlake2s :
    let a : List Chunk := [(abcDin, 64), (abcDin, 1)]
    1 ≤ (32 : BitVec 6).toNat ∧ (32 : BitVec 6).toNat ≤ 32 ∧ (∀ c ∈ a, c.2.toNat ≤ 64)
      ∧ 64 + (streamBytes a).length < 2 ^ 64 - 1 ∧ (streamBytes a).length = 65 := by decide +kernel

end Sys2Proof.Tests
end

section
/-! SUPPORT. The streaming commands compute BLAKE2s (41_streaming_state_manager.md R166 to R173). The proof's one idea: a live
context determines the chaining value FINAL will reach after any further bytes (`State.chainingAfter`); ABSORB only moves a byte
from those still to come into the context, so that value is the same from SEED to FINAL. -/

namespace Sys2Proof.Machine

/-! ## The occupancy along ABSORB -/

theorem occ_le_toNat (c : Counter) : occ c ≤ c.toNat := by
  unfold occ
  split
  · exact Nat.zero_le _
  · next h =>
    have : c.toNat ≠ 0 := fun e => h (BitVec.eq_of_toNat_eq e)
    omega

theorem ctr_toNat_add_one {c : Counter} (h : c.toNat + 1 < 2 ^ 64) : (c + 1).toNat = c.toNat + 1 :=
  BitVec.toNat_add_of_lt h

theorem occ_add_one {c : Counter} (h : c.toNat + 1 < 2 ^ 64) : occ (c + 1) = c.toNat % 64 + 1 := by
  have hne : c + 1 ≠ 0 := fun e => Nat.add_one_ne_zero c.toNat (by rw [← ctr_toNat_add_one h, e]; rfl)
  rw [occ, if_neg hne, ctr_toNat_add_one h, Nat.add_sub_cancel]

theorem toNat_mod_of_not_full {c : Counter} (h : occ c ≠ 64) : c.toNat % 64 = occ c := by
  have := occ_mod c
  have := occ_le c
  omega

/-! ## Blocks of lists -/

theorem toBlock_take_toList (block : Vector Byte 64) (p : Nat) : toBlock (block.toList.take p) = padBlock block p := by
  ext i hi
  by_cases h : i < p <;> simp [h, hi]

theorem padBlock_of_full (block : Vector Byte 64) : padBlock block 64 = block := by
  ext i hi
  simp [hi]

/-- What TRUNCATE_OUT keeps, as a list (43_output_truncator.md R208). -/
theorem truncateBytes_toList (raw : Vector Byte 32) {n : Nat} (h : n ≤ 32) :
    (truncateBytes raw n).toList = raw.toList.take n ++ List.replicate (32 - n) 0 := by
  apply List.ext_getElem
  · simp; omega
  · intro i hi _
    have hi : i < 32 := by simpa using hi
    by_cases hn : i < n <;> simp [hn, h, List.getElem_append]

/-- The key block that SEED makes of the key INIT saves (42_key_expand_block.md R193). -/
theorem keyBlock_keyOperand_toList (s : State) {keylen : BitVec 6} (h : keylen.toNat ≤ 32) :
    (keyBlock keylen (s.keyOperand keylen.toNat)).toList
      = s.kinb.toList.take keylen.toNat ++ List.replicate (64 - keylen.toNat) 0 := by
  apply List.ext_getElem
  · simp; omega
  · intro i hi _
    by_cases hk : i < keylen.toNat
    · have : i < 32 := by omega
      simp [keyBlock_getElem, hk, h, this]
    · simp [keyBlock_getElem, hk, h, List.getElem_append]

/-! ## The block-by-block function -/

/-- Fuel beyond the length of the message changes nothing. -/
theorem compressStream_fuel {n m : Nat} {bytes : List Byte} (hn : bytes.length ≤ n) (hm : bytes.length ≤ m)
    (h : Vector Word 8) (t : Nat) : compressStream n h t bytes = compressStream m h t bytes := by
  induction n generalizing m h t bytes with
  | zero => cases m <;> simp [compressStream, Nat.le_zero.mp hn]
  | succ n ih =>
    cases m with
    | zero => simp [compressStream, Nat.le_zero.mp hm]
    | succ m =>
      simp only [compressStream]
      split
      · rfl
      · exact ih (by simp; omega) (by simp; omega) _ _

/-- The last block (41_streaming_state_manager.md R172). -/
theorem compressStream_last (n : Nat) (h : Vector Word 8) (t : Nat) {bytes : List Byte} (hb : bytes.length ≤ 64) :
    compressStream n h t bytes = compressF h (toBlock bytes) (BitVec.ofNat 64 (t + bytes.length)) true := by
  cases n with
  | zero => rfl
  | succ n => rw [compressStream, if_pos hb]

/-- A full block with more to come (41_streaming_state_manager.md R171). -/
theorem compressStream_block (h : Vector Word 8) (t : Nat) {block rest : List Byte} (hb : block.length = 64)
    (hr : rest ≠ []) :
    compressStream (block ++ rest).length h t (block ++ rest)
      = compressStream rest.length (compressF h (toBlock block) (BitVec.ofNat 64 (t + 64)) false) (t + 64) rest := by
  have hpos : 0 < rest.length := List.length_pos_iff.mpr hr
  obtain ⟨n, hn⟩ : ∃ n, (block ++ rest).length = n + 1 := ⟨63 + rest.length, by simp; omega⟩
  have hlen : n + 1 = 64 + rest.length := by rw [← hn, List.length_append, hb]
  rw [hn, compressStream, if_neg (by omega), List.take_left' hb, List.drop_left' hb]
  exact compressStream_fuel (by omega) le_rfl _ _

/-! ## What a context has still to compute -/

/-- The input a context holds unconsumed (41_streaming_state_manager.md R150). -/
def State.pending (s : State) : List Byte := s.buf.toList.take (occ s.ctr)

/-- The chaining value a live context reaches by absorbing `rest` and finalizing: the unconsumed input and `rest`, block by block,
from H and the bytes already compressed. -/
def State.chainingAfter (s : State) (rest : List Byte) : Vector Word 8 :=
  compressStream (s.pending ++ rest).length s.h (s.ctr.toNat - occ s.ctr) (s.pending ++ rest)

@[simp] theorem pending_length (s : State) : s.pending.length = occ s.ctr := by
  simp [State.pending, occ_le]

@[simp] theorem toBlock_pending (s : State) : toBlock s.pending = padBlock s.buf (occ s.ctr) :=
  toBlock_take_toList _ _

@[simp] theorem absorb_ctr (s : State) (b : Byte) : (s.absorb b).ctr = s.ctr + 1 := by
  rw [absorb_frame]

/-- ABSORB puts its byte behind the bytes before its place in BUF. -/
theorem pending_absorb (s : State) (b : Byte) (h : s.ctr.toNat + 1 < 2 ^ 64) :
    (s.absorb b).pending = s.buf.toList.take (s.ctr.toNat % 64) ++ [b] := by
  have hbuf : (s.absorb b).buf.toList = s.buf.toList.set (s.ctr.toNat % 64) b := by
    simp [State.absorb, Vector.toList_set]
  have hlt : s.ctr.toNat % 64 < (s.buf.toList.set (s.ctr.toNat % 64) b).length := by simp; omega
  rw [State.pending, absorb_ctr, occ_add_one h, hbuf, ← List.take_append_getElem hlt, List.getElem_set_self,
    List.take_set_of_le le_rfl]

/-- ABSORB moves the next byte into the context and changes nothing of the outcome (41_streaming_state_manager.md R162). -/
theorem chainingAfter_absorb (s : State) (b : Byte) (rest : List Byte) (h : s.ctr.toNat + 1 < 2 ^ 64) :
    (s.absorb b).chainingAfter rest = s.chainingAfter (b :: rest) := by
  have hle := occ_le_toNat s.ctr
  have hdone : (s.ctr + 1).toNat - occ (s.ctr + 1) = s.ctr.toNat - s.ctr.toNat % 64 := by
    rw [occ_add_one h, ctr_toNat_add_one h]; omega
  have hlist : (s.absorb b).pending ++ rest = s.buf.toList.take (s.ctr.toNat % 64) ++ b :: rest := by
    rw [pending_absorb s b h, List.append_assoc, List.singleton_append]
  rw [State.chainingAfter, hlist, absorb_ctr, hdone]
  by_cases hfull : occ s.ctr = 64
  · have hmod : s.ctr.toNat % 64 = 0 := ((occ_eq_64 s.ctr).mp hfull).2
    have hh : (s.absorb b).h = compressF s.h s.buf s.ctr false := by rw [absorb_of_full s b hfull]; rfl
    have hctr : s.ctr.toNat - 64 + 64 = s.ctr.toNat := by omega
    rw [State.chainingAfter, compressStream_block _ _ ((pending_length s).trans hfull) (List.cons_ne_nil b rest)]
    simp [hh, hmod, hfull, hctr, padBlock_of_full]
  · have hh : (s.absorb b).h = s.h := by rw [absorb_of_not_full s b hfull]; rfl
    rw [hh, toNat_mod_of_not_full hfull]
    rfl

@[simp] theorem absorbAll_ctx (s : State) (bytes : List Byte) : (s.absorbAll bytes).ctx = s.ctx := by
  rw [absorbAll_frame]

@[simp] theorem absorbAll_outlen (s : State) (bytes : List Byte) : (s.absorbAll bytes).outlen = s.outlen := by
  rw [absorbAll_frame]

theorem absorbAll_ctr_toNat (s : State) (bytes : List Byte) (h : s.ctr.toNat + bytes.length < 2 ^ 64) :
    (s.absorbAll bytes).ctr.toNat = s.ctr.toNat + bytes.length := by
  rw [absorbAll_ctr, BitVec.toNat_add, BitVec.toNat_ofNat]
  omega

/-- Absorbing a list moves all of it into the context (41_streaming_state_manager.md R166). -/
theorem chainingAfter_absorbAll (s : State) (bytes rest : List Byte) (h : s.ctr.toNat + bytes.length < 2 ^ 64) :
    (s.absorbAll bytes).chainingAfter rest = s.chainingAfter (bytes ++ rest) := by
  induction bytes generalizing s with
  | nil => rfl
  | cons b bytes ih =>
    rw [List.length_cons] at h
    have hctr : (s.absorb b).ctr.toNat = s.ctr.toNat + 1 := by rw [absorb_ctr, ctr_toNat_add_one (by omega)]
    rw [absorbAll_cons, ih _ (by omega), chainingAfter_absorb _ _ _ (by omega), List.cons_append]

/-- The last compression of FINAL reaches the chaining value of nothing more to come (41_streaming_state_manager.md R168). -/
theorem lastBlock_h_eq_chainingAfter (s : State) : s.lastBlock.h = s.chainingAfter [] := by
  have := occ_le_toNat s.ctr
  have hctr : s.ctr.toNat - occ s.ctr + occ s.ctr = s.ctr.toNat := by omega
  rw [State.chainingAfter, List.append_nil, compressStream_last _ _ _ (by simp [occ_le])]
  simp [hctr]

/-- A context right after INIT has the whole of key and message to compute (42_key_expand_block.md R193, R194). -/
theorem chainingAfter_seed (s : State) (outlen : BitVec 6) {keylen : BitVec 6} (hk : keylen.toNat ≤ 32) (data : List Byte) :
    (s.newContext outlen keylen).seed.chainingAfter data
      = let absorbed := absorbedBytes (s.kinb.toList.take keylen.toNat) data
        compressStream absorbed.length (initialChaining outlen keylen) 0 absorbed := by
  have hocc : occ (s.newContext outlen keylen).seed.ctr = if 0 < keylen.toNat then 64 else 0 := by
    rw [State.seed_ctr, State.newContext_keylen]
    split <;> rfl
  have hdone : (s.newContext outlen keylen).seed.ctr.toNat - occ (s.newContext outlen keylen).seed.ctr = 0 := by
    rw [State.seed_ctr]
    split <;> rfl
  have hall : (s.newContext outlen keylen).seed.pending ++ data
      = absorbedBytes (s.kinb.toList.take keylen.toNat) data := by
    rw [State.pending, hocc, absorbedBytes]
    by_cases h0 : keylen.toNat = 0
    · simp [h0]
    · have hblock := keyBlock_keyOperand_toList s hk
      rw [if_pos (Nat.pos_of_ne_zero h0), if_neg (by simp [h0]), State.seed_buf, State.newContext_keylen,
        State.newContext_skey, List.take_of_length_le (by simp), hblock]
      simp [hk]
  rw [State.chainingAfter, hall, hdone]
  rfl

/-! ## A stream of UPDATE commands -/

/-- ABSORB commutes with a change of DIN and ERR. -/
theorem absorbAll_withDin (s : State) (din : Vector Word 16) (e : ErrCode) (bytes : List Byte) :
    State.absorbAll { s with din := din, err := e } bytes = { s.absorbAll bytes with din := din, err := e } := by
  rw [absorbAll_withStaging s din s.kin e bytes, absorbAll_frame s bytes]

/-- An UPDATE with room in the counter absorbs its bytes (41_streaming_state_manager.md R160). -/
theorem exec_update_of_room (c : Chunk) (s : State) (hctx : s.ctx = true) (hn : c.2.toNat ≤ 64)
    (hroom : s.ctr.toNat + c.bytes.length < 2 ^ 64 - 1) :
    exec (.update c.2) { s with din := c.1 } = .next { s.absorbAll c.bytes with din := c.1, err := .success } := by
  have hlen : c.bytes.length = c.2.toNat := by simp [Chunk.bytes, hn]
  obtain ⟨t, ht⟩ := exec_answers_next (.update c.2) { s with din := c.1 }
  obtain ⟨h, -⟩ | ⟨h, -⟩ | ⟨-, h, -⟩ | ⟨-, -, -, h, -⟩ | ⟨-, -, -, rfl⟩ := execUpdate_cases ht
  · omega
  · simp [hctx] at h
  · have := (ctr_eq_sentinel s.ctr).mp h
    omega
  · simp only at h
    omega
  · rw [ht]
    exact congrArg (fun u => Host.Outcome.next (u.withErr .success)) (absorbAll_withDin s c.1 s.err c.bytes)

/-- Legal UPDATEs with room in the counter all complete, and absorb the stream (41_streaming_state_manager.md R160, R166). -/
theorem feed_eq_absorbAll (chunks : List Chunk) (s : State) (hctx : s.ctx = true) (hlegal : ∀ c ∈ chunks, c.2.toNat ≤ 64)
    (hroom : s.ctr.toNat + (streamBytes chunks).length < 2 ^ 64 - 1) :
    ∃ din err, feed chunks s = .next { s.absorbAll (streamBytes chunks) with din := din, err := err } := by
  induction chunks generalizing s with
  | nil => exact ⟨s.din, s.err, rfl⟩
  | cons c rest ih =>
    obtain ⟨hc, hrest⟩ := List.forall_mem_cons.mp hlegal
    have hbytes : streamBytes (c :: rest) = c.bytes ++ streamBytes rest := List.flatMap_cons
    rw [hbytes, List.length_append] at hroom
    have hstep := exec_update_of_room c s hctx hc (by omega)
    have hctr := absorbAll_ctr_toNat s c.bytes (by omega)
    obtain ⟨din, err, hfeed⟩ := ih { s.absorbAll c.bytes with din := c.1, err := .success }
      ((absorbAll_ctx s _).trans hctx) hrest (by simp only [hctr]; omega)
    refine ⟨din, err, ?_⟩
    simp only [feed, hstep, hfeed, absorbAll_withDin, hbytes, absorbAll_append]

/-- INIT with lengths in range (41_streaming_state_manager.md R155). -/
theorem exec_init_of_legal (s : State) {outlen keylen : BitVec 6} (h1 : 1 ≤ outlen.toNat) (h32 : outlen.toNat ≤ 32)
    (hk : keylen.toNat ≤ 32) :
    exec (.init outlen keylen) s = .next ((s.newContext outlen keylen).seed.withErr .success) := by
  rw [exec, execInit, if_neg (by omega), if_neg (by omega)]
  rfl

/-- FINAL on a live context (41_streaming_state_manager.md R168). -/
theorem exec_final_of_live (s : State) (hctx : s.ctx = true) (hlive : s.ctr.toNat ≠ 2 ^ 64 - 1) :
    exec .final s = .next (s.finalize.withErr .success) := by
  rw [exec, execFinal, if_neg (by simp [hctx]), if_neg (mt (ctr_eq_sentinel _).mp hlive)]
  rfl

/-- The digest FINAL leaves (41_streaming_state_manager.md R168, 43_output_truncator.md R208). -/
theorem finalize_dout (s : State) :
    s.finalize.dout = truncateBytes (ser8 (s.chainingAfter [])) s.outlen.toNat := by
  rw [← lastBlock_h_eq_chainingAfter]
  rfl

/-- A stream and FINAL on a live context leave in DOUT the chaining value the context determined for that stream, truncated. -/
theorem feed_final (chunks : List Chunk) (s : State) (hctx : s.ctx = true) (hlegal : ∀ c ∈ chunks, c.2.toNat ≤ 64)
    (hroom : s.ctr.toNat + (streamBytes chunks).length < 2 ^ 64 - 1) :
    ∃ live done, feed chunks s = .next live ∧ exec .final live = .next done ∧ done.dlen = s.outlen
      ∧ done.dout = truncateBytes (ser8 (s.chainingAfter (streamBytes chunks))) s.outlen.toNat := by
  obtain ⟨din, err, hfeed⟩ := feed_eq_absorbAll chunks s hctx hlegal hroom
  have hctr := absorbAll_ctr_toNat s (streamBytes chunks) (by omega)
  have hchaining := chainingAfter_absorbAll s (streamBytes chunks) [] (by omega)
  rw [List.append_nil] at hchaining
  refine ⟨_, _, hfeed, exec_final_of_live _ ((absorbAll_ctx s _).trans hctx) ?_, absorbAll_outlen s _, ?_⟩
  · simp only [hctr]
    omega
  · rw [State.withErr_dout, finalize_dout, ← hchaining, ← absorbAll_outlen s (streamBytes chunks)]
    rfl

/-! ## The digest -/

/-- Settles O58: from SEED to FINAL the chaining value still to be reached is the one of the block-by-block function. -/
theorem streamingComputesBlake2s : Obligations.StreamingComputesBlake2s := by
  intro s outlen keylen chunks h1 h32 hk hlegal hroom
  have hctr : ((s.newContext outlen keylen).seed.withErr .success).ctr.toNat ≤ 64 := by
    rw [State.withErr_ctr, State.seed_ctr]
    split <;> decide
  obtain ⟨live, done, hfeed, hfinal, hdlen, hdout⟩ :=
    feed_final chunks ((s.newContext outlen keylen).seed.withErr .success) rfl hlegal (by omega)
  refine ⟨_, live, done, exec_init_of_legal s h1 h32 hk, hfeed, hfinal, hdlen, ?_⟩
  have hchaining : ((s.newContext outlen keylen).seed.withErr .success).chainingAfter (streamBytes chunks) = _ :=
    chainingAfter_seed s outlen hk (streamBytes chunks)
  rw [hdout, hchaining]
  exact truncateBytes_toList _ h32

end Sys2Proof.Machine
end

section
/-! SUPPORT. The offsets of the window and its registers (10_state.md R51): which register stands at an aligned offset, what a
write to a register does by its class, and the steps that serve an admitted access. -/

namespace Sys2Proof.Machine

/-! ## Offsets and registers -/

/-- The word slot of a register, its offset divided by 4 (10_state.md R51); of the reserved ones, the slot of 0x0C. -/
def Reg.slot : Reg → Nat
  | .cmd => 0
  | .status => 1
  | .cfg => 2
  | .reserved => 3
  | .ctrLo => 4
  | .ctrHi => 5
  | .ctrinLo => 6
  | .ctrinHi => 7
  | .din i => 16 + i
  | .kin i => 32 + i
  | .dout i => 40 + i

/-- The staging registers (10_state.md R63). -/
def Reg.isStaging : Reg → Bool
  | .ctrinLo | .ctrinHi | .din _ | .kin _ => true
  | .cmd | .status | .cfg | .ctrLo | .ctrHi | .dout _ | .reserved => false

/-- CMD and the staging registers, whose writes must not meet a running command (20_memory.md R76). -/
def Reg.isGuarded (r : Reg) : Bool := r == .cmd || r.isStaging

theorem ofSlot_slot (r : Reg) : Reg.ofSlot r.slot = r := by
  cases r with
  | cmd | status | cfg | ctrLo | ctrHi | ctrinLo | ctrinHi | reserved => rfl
  | din i | kin i | dout i =>
    revert i
    decide

theorem slot_ofSlot {n : Nat} (h : Reg.ofSlot n ≠ .reserved) : (Reg.ofSlot n).slot = n := by
  unfold Reg.ofSlot at h ⊢
  repeat' split
  all_goals simp_all [Reg.slot]

/-- The offset at which a register stands is its own (10_state.md R51). -/
theorem ofOff_eq_iff {off : BitVec 8} (ha : off.toNat % 4 = 0) {r : Reg} (hr : r ≠ .reserved) :
    Reg.ofOff off = r ↔ off.toNat = 4 * r.slot := by
  constructor
  · rintro rfl
    have := slot_ofSlot hr
    rw [Reg.ofOff, this]
    omega
  · intro h
    rw [Reg.ofOff, h, Nat.mul_div_cancel_left _ (by decide), ofSlot_slot]

/-- Two aligned offsets of one register that is not reserved are equal. -/
theorem ofOff_injective {off off' : BitVec 8} (ha : off.toNat % 4 = 0) (ha' : off'.toNat % 4 = 0)
    (hr : Reg.ofOff off ≠ .reserved) (h : Reg.ofOff off' = Reg.ofOff off) : off' = off := by
  have h' := (ofOff_eq_iff ha' hr).1 h
  have := (ofOff_eq_iff ha hr).1 rfl
  exact BitVec.eq_of_toNat_eq (h'.trans this.symm)

theorem isStaging_ofSlot (n : Nat) : (Reg.ofSlot n).isStaging = true ↔ n = 6 ∨ n = 7 ∨ 16 ≤ n ∧ n < 40 := by
  unfold Reg.ofSlot
  repeat' split
  all_goals
    simp only [Reg.isStaging, reduceCtorEq, true_iff, false_iff]
    omega

theorem isStaging_ofOff {off : BitVec 8} (ha : off.toNat % 4 = 0) :
    (Reg.ofOff off).isStaging = true ↔ StagingOffset off := by
  rw [Reg.ofOff, isStaging_ofSlot]
  simp only [StagingOffset, GuardedOffset, ha, true_and, ← BitVec.toNat_inj, BitVec.reduceToNat, ne_eq]
  omega

/-- The one aligned offset of a register that is not reserved. -/
theorem ofOff_eq_iff_eq {off x : BitVec 8} (ha : off.toNat % 4 = 0) {r : Reg} (hr : r ≠ .reserved)
    (hx : x.toNat = 4 * r.slot) : Reg.ofOff off = r ↔ off = x := by
  rw [ofOff_eq_iff ha hr, ← hx, BitVec.toNat_inj]

theorem ofOff_eq_cmd {off : BitVec 8} (ha : off.toNat % 4 = 0) : Reg.ofOff off = .cmd ↔ off = 0x00 :=
  ofOff_eq_iff_eq ha (by decide) rfl

theorem ofOff_eq_status {off : BitVec 8} (ha : off.toNat % 4 = 0) : Reg.ofOff off = .status ↔ off = 0x04 :=
  ofOff_eq_iff_eq ha (by decide) rfl

theorem isGuarded_ofOff {off : BitVec 8} (ha : off.toNat % 4 = 0) :
    (Reg.ofOff off).isGuarded = true ↔ GuardedOffset off := by
  rw [Reg.isGuarded, Bool.or_eq_true, beq_iff_eq, ofOff_eq_cmd ha, isStaging_ofOff ha]
  simp only [StagingOffset, GuardedOffset, ha, true_and, ← BitVec.toNat_inj, BitVec.reduceToNat, ne_eq]
  omega

theorem ofOff_reserved {off : BitVec 8} (h : ReservedOffset off) : Reg.ofOff off = .reserved := by
  obtain ⟨ha, hoff⟩ := h
  simp only [← BitVec.toNat_inj, BitVec.reduceToNat] at hoff
  by_contra hr
  have hslot := (ofOff_eq_iff ha hr).1 rfl
  generalize Reg.ofOff off = r at hr hslot
  cases r with
  | reserved => exact hr rfl
  | cmd | status | cfg | ctrLo | ctrHi | ctrinLo | ctrinHi =>
    simp only [Reg.slot] at hslot
    omega
  | din i | kin i | dout i =>
    have := i.isLt
    simp only [Reg.slot] at hslot
    omega

/-! ## Writes by the class of the register -/

section
variable (s : State) (v : Word)

/-- A register that is neither guarded nor STATUS ignores a write (10_state.md R54 to R57). -/
theorem writeReg_of_readOnly {r : Reg} (hg : r.isGuarded = false) (hs : r ≠ .status) : s.writeReg v r = s := by
  cases r with
  | cfg | ctrLo | ctrHi | dout | reserved => rfl
  | status => exact absurd rfl hs
  | cmd | ctrinLo | ctrinHi | din | kin => cases hg

/-- BUSY after a write (10_state.md R43). -/
theorem writeReg_busy (r : Reg) : (s.writeReg v r).busy = (s.busy || r == .cmd) := by
  cases hb : s.busy with
  | true =>
    obtain ⟨o, h⟩ := writeReg_of_busy hb v r
    rw [h]
    exact hb
  | false =>
    cases r with
    | cmd => simp [State.writeReg, State.ifIdle, hb]
    | status =>
      simp only [State.writeReg, State.writeStatus]
      split <;> exact hb
    | cfg | ctrLo | ctrHi | dout | reserved => exact hb
    | ctrinLo | ctrinHi | din | kin => simp [State.writeReg, State.ifIdle, hb]

/-- A write to a guarded register sets OVR if a command is running (20_memory.md R76). -/
theorem writeReg_ovr_of_guarded {r : Reg} (hg : r.isGuarded = true) : (s.writeReg v r).ovr = (s.ovr || s.busy) := by
  have hid {s' : State} (h : s'.ovr = s.ovr) : (s.ifIdle s').ovr = (s.ovr || s.busy) := by
    cases hb : s.busy <;> simp [State.ifIdle, hb, h]
  cases r with
  | cmd | ctrinLo | ctrinHi | din | kin => exact hid rfl
  | status | cfg | ctrLo | ctrHi | dout | reserved => cases hg

/-- A write to STATUS, as an exact next state (10_state.md R53). -/
theorem writeReg_status : s.writeReg v .status = { s with ovr := if v.getLsbD 3 then false else s.ovr } := by
  simp only [State.writeReg, State.writeStatus]
  split <;> rfl

/-- OVR after a write to a register that is not STATUS (20_memory.md R76). -/
theorem writeReg_ovr {r : Reg} (hs : r ≠ .status) : (s.writeReg v r).ovr = (s.ovr || (s.busy && r.isGuarded)) := by
  cases hg : r.isGuarded with
  | true => rw [writeReg_ovr_of_guarded s v hg, Bool.and_true]
  | false => rw [writeReg_of_readOnly s v hg hs, Bool.and_false, Bool.or_false]

/-- A write to a staging register of an idle block changes the staging registers only (20_memory.md R76). -/
theorem writeReg_staging_frame (hb : s.busy = false) {r : Reg} (hr : r.isStaging = true) :
    ∃ din kin lo hi, s.writeReg v r = { s with din := din, kin := kin, ctrinLo := lo, ctrinHi := hi } := by
  have hid (s' : State) : s.ifIdle s' = s' := if_neg (by simp [hb])
  cases r with
  | ctrinLo | ctrinHi | din | kin => exact ⟨_, _, _, _, hid _⟩
  | cmd | status | cfg | ctrLo | ctrHi | dout | reserved => cases hr

/-- A staging register of an idle block reads what was written to it (10_state.md R46 to R48). -/
theorem readReg_writeReg_same (hb : s.busy = false) {r : Reg} (hr : r.isStaging = true) :
    (s.writeReg v r).readReg r = v := by
  cases r with
  | ctrinLo | ctrinHi | din | kin => simp [State.writeReg, State.ifIdle, State.readReg, hb]
  | cmd | status | cfg | ctrLo | ctrHi | dout | reserved => cases hr

/-- A write to a staging register of an idle block leaves what every other register reads. -/
theorem readReg_writeReg_other (hb : s.busy = false) {r r' : Reg} (hr : r.isStaging = true) (hne : r' ≠ r) :
    (s.writeReg v r).readReg r' = s.readReg r' := by
  have hid (s' : State) : s.ifIdle s' = s' := if_neg (by simp [hb])
  cases r with
  | ctrinLo =>
    rw [State.writeReg, hid]
    cases r' with
    | ctrinLo => exact absurd rfl hne
    | _ => rfl
  | ctrinHi =>
    rw [State.writeReg, hid]
    cases r' with
    | ctrinHi => exact absurd rfl hne
    | _ => rfl
  | din i =>
    rw [State.writeReg, hid]
    cases r' with
    | din j => exact Vector.getElem_set_ne i.isLt j.isLt fun h => hne (congrArg Reg.din (Fin.ext h.symm))
    | _ => rfl
  | kin i =>
    rw [State.writeReg, hid]
    cases r' with
    | kin j => exact Vector.getElem_set_ne i.isLt j.isLt fun h => hne (congrArg Reg.kin (Fin.ext h.symm))
    | _ => rfl
  | cmd | status | cfg | ctrLo | ctrHi | dout | reserved => cases hr

end

/-! ## Serving an admitted access -/

@[simp] theorem readReg_takeInput (s : State) (rest : List HostOp) (r : Reg) :
    (s.takeInput rest).readReg r = s.readReg r := by
  cases r <;> rfl

theorem step_of_serves_read {s : State} {off : BitVec 8} {rest : List HostOp} (h : s.Serves (.read .word off) rest)
    (ha : off.toNat % 4 = 0) : step s = .next ((s.takeInput rest).reply (s.readReg (Reg.ofOff off))) := by
  rw [step_of_serves h, serve, serveRead, if_pos (by simp [admitted, ha]), readReg_takeInput]

theorem step_of_serves_write {s : State} {off : BitVec 8} {v : Word} {rest : List HostOp}
    (h : s.Serves (.write .word off v) rest) (ha : off.toNat % 4 = 0) :
    step s = .next ((s.takeInput rest).writeReg v (Reg.ofOff off)) := by
  rw [step_of_serves h, serve, serveWrite, if_pos (by simp [admitted, ha])]

end Sys2Proof.Machine
end

section
/-! SUPPORT. What a command and what a step can answer, said once for the invariant, the flags and the window (60_exceptions.md
R226, R236, 20_memory.md R76). -/

namespace Sys2Proof.Machine

/-! ## Commands -/

/-- Everything a command can answer: an error that changes ERR alone, or its own success (60_exceptions.md R226). -/
theorem exec_cases {i : Instr} {s t : State} (h : exec i s = .next t) :
    (∃ e, t = s.withErr e)
      ∨ (∃ outlen keylen, i = .init outlen keylen ∧ 1 ≤ outlen.toNat ∧ outlen.toNat ≤ 32 ∧ keylen.toNat ≤ 32
          ∧ t = (s.newContext outlen keylen).seed.withErr .success)
      ∨ (∃ n, i = .update n ∧ s.ctx = true ∧ n.toNat ≤ 64 ∧ s.ctr.toNat + n.toNat < 2 ^ 64 - 1
          ∧ t = (s.absorbAll (s.updateData n.toNat)).withErr .success)
      ∨ (i = .final ∧ s.ctx = true ∧ t = s.finalize.withErr .success)
      ∨ (i = .finalReset ∧ s.ctx = true ∧ s.ctr ≠ sentinel ∧ t = s.finalize.seed.withErr .success)
      ∨ (i = .reset ∧ s.ctx = true ∧ t = s.seed.withErr .success)
      ∨ (∃ last, i = .compress last ∧ t = (s.outputState (compressF s.kin s.dinb s.ctrin last)).withErr .success) := by
  cases i with
  | init outlen keylen =>
    obtain ⟨-, h⟩ | ⟨-, -, -, h⟩ | ⟨h1, h32, hk, h⟩ := execInit_cases h
    · exact .inl ⟨_, h⟩
    · exact .inl ⟨_, h⟩
    · exact .inr (.inl ⟨_, _, rfl, h1, h32, hk, h⟩)
  | update n =>
    obtain ⟨-, h⟩ | ⟨-, h⟩ | ⟨-, -, h⟩ | ⟨-, -, -, -, h⟩ | ⟨hctx, hn, hroom, h⟩ := execUpdate_cases h
    · exact .inl ⟨_, h⟩
    · exact .inl ⟨_, h⟩
    · exact .inl ⟨_, h⟩
    · exact .inl ⟨_, h⟩
    · exact .inr (.inr (.inl ⟨n, rfl, hctx, hn, hroom, h⟩))
  | final =>
    obtain ⟨-, h⟩ | ⟨-, -, h⟩ | ⟨hctx, -, h⟩ := execFinal_cases h
    · exact .inl ⟨_, h⟩
    · exact .inl ⟨_, h⟩
    · exact .inr (.inr (.inr (.inl ⟨rfl, hctx, h⟩)))
  | finalReset =>
    obtain ⟨-, h⟩ | ⟨-, -, h⟩ | ⟨hctx, hlive, h⟩ := execFinalReset_cases h
    · exact .inl ⟨_, h⟩
    · exact .inl ⟨_, h⟩
    · exact .inr (.inr (.inr (.inr (.inl ⟨rfl, hctx, hlive, h⟩))))
  | reset =>
    obtain ⟨-, h⟩ | ⟨hctx, h⟩ := execReset_cases h
    · exact .inl ⟨_, h⟩
    · exact .inr (.inr (.inr (.inr (.inr (.inl ⟨rfl, hctx, h⟩)))))
  | compress last => exact .inr (.inr (.inr (.inr (.inr (.inr ⟨last, rfl, (Host.Outcome.next.inj h).symm⟩)))))

section
variable {i : Instr} {s t : State}

/-- All a command can change is the context, the output and ERR (10_state.md R33 to R44): BUSY, OVR and the reset input are the
port's, and the staging registers the Host's. -/
theorem exec_frame (h : exec i s = .next t) :
    t = { s with
      h := t.h, buf := t.buf, ctr := t.ctr, outlen := t.outlen, keylen := t.keylen, skey := t.skey, ctx := t.ctx
      dout := t.dout, dlen := t.dlen, err := t.err } := by
  obtain ⟨e, rfl⟩ | ⟨_, _, -, -, -, -, rfl⟩ | ⟨n, -, -, -, -, rfl⟩ | ⟨-, -, rfl⟩ | ⟨-, -, -, rfl⟩ | ⟨-, -, rfl⟩ | ⟨_, -, rfl⟩ :=
    exec_cases h
  · rfl
  · simp only [State.newContext, State.seed, State.withErr]
  · rw [absorbAll_frame]
    rfl
  · rfl
  · rfl
  · rfl
  · simp only [State.outputState, State.withErr]

/-- BUSY, OVR and the reset input after a command (10_state.md R43, R45). -/
theorem exec_port_frame (h : exec i s = .next t) : t.busy = s.busy ∧ t.ovr = s.ovr ∧ t.resetIn = s.resetIn := by
  rw [exec_frame h]
  exact ⟨rfl, rfl, rfl⟩

/-- The staging registers after a command (10_state.md R63). -/
theorem exec_staging (h : exec i s = .next t) :
    t.din = s.din ∧ t.kin = s.kin ∧ t.ctrinLo = s.ctrinLo ∧ t.ctrinHi = s.ctrinHi := by
  rw [exec_frame h]
  exact ⟨rfl, rfl, rfl, rfl⟩

/-- Only INIT writes what CFG reads (10_state.md R36, R37, R39). -/
theorem exec_config (h : exec i s = .next t) (hi : ∀ outlen keylen, i ≠ .init outlen keylen) :
    t.ctx = s.ctx ∧ t.outlen = s.outlen ∧ t.keylen = s.keylen := by
  obtain ⟨e, rfl⟩ | ⟨ol, kl, rfl, -⟩ | ⟨n, -, -, -, -, rfl⟩ | ⟨-, -, rfl⟩ | ⟨-, -, -, rfl⟩ | ⟨-, -, rfl⟩ | ⟨_, -, rfl⟩ :=
    exec_cases h
  · exact ⟨rfl, rfl, rfl⟩
  · exact absurd rfl (hi ol kl)
  · rw [absorbAll_frame]
    exact ⟨rfl, rfl, rfl⟩
  · exact ⟨rfl, rfl, rfl⟩
  · exact ⟨rfl, rfl, rfl⟩
  · exact ⟨rfl, rfl, rfl⟩
  · simp

/-- Only a successful INIT changes CTX (10_state.md R39). -/
theorem exec_ctx (h : exec i s = .next t) :
    t.ctx = s.ctx ∨ t.ctx = true ∧ t.err = .success ∧ ∃ outlen keylen, i = .init outlen keylen := by
  by_cases hi : ∃ outlen keylen, i = .init outlen keylen
  · obtain ⟨ol, kl, rfl⟩ := hi
    obtain ⟨-, rfl⟩ | ⟨-, -, -, rfl⟩ | ⟨-, -, -, rfl⟩ := execInit_cases h
    · exact .inl rfl
    · exact .inl rfl
    · exact .inr ⟨rfl, rfl, ol, kl, rfl⟩
  · obtain ⟨hctx, -, -⟩ := exec_config h fun ol kl hi' => hi ⟨ol, kl, hi'⟩
    exact .inl hctx

/-- COMPRESS leaves CTR alone (40_compression_engine.md R133). -/
theorem exec_compress_ctr {last : Bool} (h : exec (.compress last) s = .next t) : t.ctr = s.ctr := by
  rw [exec, execCompress_eq] at h
  cases h
  simp

/-- UPDATE leaves DOUT alone (10_state.md R41). -/
theorem exec_update_dout {n : BitVec 7} (h : exec (.update n) s = .next t) : t.dout = s.dout := by
  obtain ⟨-, rfl⟩ | ⟨-, rfl⟩ | ⟨-, -, rfl⟩ | ⟨-, -, -, -, rfl⟩ | ⟨-, -, -, rfl⟩ := execUpdate_cases h
  · rfl
  · rfl
  · rfl
  · rfl
  · rw [absorbAll_frame]
    rfl

/-- RESET leaves DOUT alone (10_state.md R41). -/
theorem exec_reset_dout (h : exec .reset s = .next t) : t.dout = s.dout := by
  obtain ⟨-, rfl⟩ | ⟨-, rfl⟩ := execReset_cases h
  · rfl
  · rfl

end

theorem fin_of_live {s : State} (h : s.ctr ≠ sentinel) : s.fin = false := by
  simp [State.fin, h]

/-- SEED never leaves the sentinel in CTR (10_state.md R58). -/
theorem fin_seed (s : State) : s.seed.fin = false := fin_of_live <| by
  rw [State.seed_ctr]
  split <;> decide

/-- Counting within the room UPDATE checks never reaches the sentinel (10_state.md R58). -/
theorem fin_absorbAll {s : State} {bytes : List Byte} (h : s.ctr.toNat + bytes.length < 2 ^ 64 - 1) :
    (s.absorbAll bytes).fin = false := fin_of_live fun hs => by
  have := absorbAll_ctr_toNat s bytes (by omega)
  rw [hs, sentinel_toNat] at this
  omega

/-- A command poisons a context only as a successful FINAL and revives one only as INIT or RESET (10_state.md R40, R58). -/
theorem exec_fin {i : Instr} {s t : State} (h : exec i s = .next t) :
    t.fin = s.fin ∨ (i = .final ∧ t.err = .success ∧ t.fin = true)
      ∨ (t.fin = false ∧ ((∃ outlen keylen, i = .init outlen keylen) ∨ i = .reset)) := by
  obtain ⟨e, rfl⟩ | ⟨ol, kl, rfl, -, -, -, rfl⟩ | ⟨n, -, hctx, hn, hroom, rfl⟩ | ⟨rfl, hctx, rfl⟩ | ⟨-, -, hlive, rfl⟩
    | ⟨rfl, -, rfl⟩ | ⟨_, -, rfl⟩ := exec_cases h
  · exact .inl rfl
  · exact .inr (.inr ⟨fin_seed _, .inl ⟨ol, kl, rfl⟩⟩)
  · have hs : s.fin = false := fin_absorbAll (bytes := []) (by rw [List.length_nil]; omega)
    have ht : (s.absorbAll (s.updateData n.toNat)).fin = false := fin_absorbAll (by rw [updateData_length]; omega)
    exact .inl (ht.trans hs.symm)
  · exact .inr (.inl ⟨rfl, rfl, (fin_eq_true _).2 ⟨hctx, rfl⟩⟩)
  · exact .inl ((fin_seed s.finalize).trans (fin_of_live hlive).symm)
  · exact .inr (.inr ⟨fin_seed _, .inr rfl⟩)
  · exact .inl (by simp [State.fin])

/-! ## Steps -/

/-- What an access leaves alone: the context, the output and ERR, which only completions write, and the reset input. -/
structure SameButPort (s t : State) : Prop where
  context : SameContext t s
  dout : t.dout = s.dout
  dlen : t.dlen = s.dlen
  err : t.err = s.err
  resetIn : t.resetIn = s.resetIn

/-- A write changes nothing but BUSY, OVR, PEND, the staging registers and the model's own fields (20_memory.md R76). -/
theorem sameButPort_writeReg (s : State) (v : Word) (r : Reg) : SameButPort s (s.writeReg v r) := by
  have hid {s' : State} (h : SameButPort s s') : SameButPort s (s.ifIdle s') := by
    unfold State.ifIdle
    split
    · exact ⟨⟨rfl, rfl, rfl, rfl, rfl, rfl, rfl⟩, rfl, rfl, rfl, rfl⟩
    · exact h
  cases r with
  | cmd | ctrinLo | ctrinHi | din | kin => exact hid ⟨⟨rfl, rfl, rfl, rfl, rfl, rfl, rfl⟩, rfl, rfl, rfl, rfl⟩
  | status =>
    rw [writeReg_status]
    exact ⟨⟨rfl, rfl, rfl, rfl, rfl, rfl, rfl⟩, rfl, rfl, rfl, rfl⟩
  | cfg | ctrLo | ctrHi | dout | reserved => exact ⟨⟨rfl, rfl, rfl, rfl, rfl, rfl, rfl⟩, rfl, rfl, rfl, rfl⟩

/-- A Host step is an assertion of reset, a write, or leaves the block as it is: reads, POLL and the conditional stop have no
side effect (20_memory.md R76). -/
theorem hostStep_effect {s t : State} (h : hostStep s = .next t) :
    (∃ rest, s.host = .assertReset :: rest ∧ t = (s.takeInput rest).assertReset)
      ∨ (∃ off v rest, s.host = .write .word off v :: rest ∧ off.toNat % 4 = 0
          ∧ t = (s.takeInput rest).writeReg v (Reg.ofOff off))
      ∨ ∃ host replies wait, t = { s with host := host, replies := replies, wait := wait } := by
  obtain ⟨-, rfl⟩ | ⟨off, rest, -, -, rfl⟩ | hw | ⟨rest, -, rfl⟩ | ⟨n, rest, -, rfl⟩ | hr | ⟨rest, -, rfl⟩ := hostStep_cases h
  · exact .inr (.inr ⟨_, _, _, rfl⟩)
  · exact .inr (.inr ⟨_, _, _, rfl⟩)
  · exact .inr (.inl hw)
  · unfold State.pollOnce
    split <;> exact .inr (.inr ⟨_, _, _, rfl⟩)
  · unfold State.stopOnErr
    split <;> exact .inr (.inr ⟨_, _, _, rfl⟩)
  · exact .inl hr
  · exact .inr (.inr ⟨_, _, _, rfl⟩)

/-- Everything a step does to the block: hardware reset, a completion, a write, or nothing. -/
theorem step_effect {s t : State} (h : step s = .next t) :
    (s.UnderReset ∧ t.AtReset ∧ t.wait = 0)
      ∨ (s.engineTurn = true ∧ ∃ u, t = u.complete
          ∧ ((∃ i, s.Completes i ∧ exec i s = .next u) ∨ u = s.withErr .invalidCommand))
      ∨ (∃ off v rest, s.Serves (.write .word off v) rest ∧ off.toNat % 4 = 0
          ∧ t = (s.takeInput rest).writeReg v (Reg.ofOff off))
      ∨ (s.resetIn = false ∧ ∃ host replies wait, t = { s with host := host, replies := replies, wait := wait }) := by
  obtain ⟨hr, h⟩ | ⟨he, h⟩ | ⟨hr, he, h⟩ := step_cases h
  · obtain ⟨hat, ⟨-, rfl⟩ | ⟨op, rest, -, rfl | rfl | ⟨-, rfl⟩⟩⟩ := heldStep_cases h
    all_goals exact .inl ⟨.inl hr, hat, rfl⟩
  · obtain ⟨i, u, hd, hu, rfl⟩ | ⟨r, -, rfl⟩ := engineStep_cases h
    · exact .inr (.inl ⟨he, u, rfl, .inl ⟨i, ⟨he, hd⟩, hu⟩⟩)
    · exact .inr (.inl ⟨he, _, rfl, .inr rfl⟩)
  · obtain ⟨rest, hh, rfl⟩ | ⟨off, v, rest, hh, ha, rfl⟩ | hkeep := hostStep_effect h
    · exact .inl ⟨.inr ⟨rest, hr, he, hh⟩, ⟨_, _, _, _, _, _, rfl⟩, rfl⟩
    · exact .inr (.inr (.inl ⟨off, v, rest, ⟨hr, he, hh⟩, ha, rfl⟩))
    · exact .inr (.inr (.inr ⟨hr, hkeep⟩))

/-- A step is made under hardware reset, completes a command, or is an access. -/
theorem step_completes_or_sameButPort {s t : State} (h : step s = .next t) :
    (s.UnderReset ∧ t.AtReset ∧ t.wait = 0)
      ∨ (s.engineTurn = true ∧ ∃ u, t = u.complete
          ∧ ((∃ i, s.Completes i ∧ exec i s = .next u) ∨ u = s.withErr .invalidCommand))
      ∨ (s.resetIn = false ∧ SameButPort s t) := by
  obtain hr | hc | ⟨off, v, rest, ⟨hr, -, -⟩, -, rfl⟩ | ⟨hr, host, replies, wait, rfl⟩ := step_effect h
  · exact .inl hr
  · exact .inr (.inl hc)
  · obtain ⟨hctx, hdout, hdlen, herr, hin⟩ := sameButPort_writeReg (s.takeInput rest) v (Reg.ofOff off)
    exact .inr (.inr ⟨hr, hctx, hdout, hdlen, herr, hin⟩)
  · exact .inr (.inr ⟨hr, ⟨rfl, rfl, rfl, rfl, rfl, rfl, rfl⟩, rfl, rfl, rfl, rfl⟩)

end Sys2Proof.Machine
end

section
/-! SUPPORT. The invariant of every reachable state (10_state.md R59, R61, R62): it holds after reset and every step keeps it. -/

namespace Sys2Proof.Machine

theorem hardwareReset_of_atReset {s : State} (h : s.AtReset) (hw : s.wait = 0) : s.hardwareReset = s := by
  obtain ⟨_, _, _, wait, _, _, rfl⟩ := h
  cases hw
  rfl

theorem inv_of_atReset {s : State} (h : s.AtReset) (hw : s.wait = 0) : s.Inv := by
  have hheld : s.HeldByReset := fun _ => hardwareReset_of_atReset h hw
  obtain ⟨_, _, _, _, _, _, rfl⟩ := h
  refine ⟨nofun, fun _ => ⟨rfl, rfl, rfl, rfl, rfl, rfl⟩, ⟨Nat.zero_le _, fun i _ => ?_⟩, hheld⟩
  exact Vector.getElem_replicate i.isLt

section
variable {s t : State}

theorem contextLegal_of_sameContext (hs : s.ContextLegal) (h : SameContext t s) : t.ContextLegal := by
  obtain ⟨-, -, hctr, hol, hkl, hskey, hctx⟩ := h
  rw [State.ContextLegal, hctr, hol, hkl, hskey, hctx]
  exact hs

theorem blankWithoutContext_of_sameContext (hs : s.BlankWithoutContext) (h : SameContext t s) : t.BlankWithoutContext := by
  obtain ⟨hh, hbuf, hctr, hol, hkl, hskey, hctx⟩ := h
  rw [State.BlankWithoutContext, hh, hbuf, hctr, hol, hkl, hskey, hctx]
  exact hs

theorem outputLegal_of_eq (hs : s.OutputLegal) (hdout : t.dout = s.dout) (hdlen : t.dlen = s.dlen) : t.OutputLegal := by
  rw [State.OutputLegal, hdout, hdlen]
  exact hs

theorem sameContext_outputState (s : State) (st : Vector Word 8) : SameContext ((s.outputState st).withErr .success) s := by
  simp [SameContext]

/-- SEED counts the key block of a keyed context (42_key_expand_block.md R194). -/
theorem contextLegal_seed (h1 : 1 ≤ s.outlen.toNat) (h32 : s.outlen.toNat ≤ 32) (hk : s.keylen.toNat ≤ 32)
    (htail : ∀ i : Fin 32, s.keylen.toNat ≤ i.val → s.skey[i] = 0) : s.seed.ContextLegal := fun _ => by
  refine ⟨h1, h32, hk, htail, fun hkey => ?_⟩
  have hctr : s.seed.ctr = 64 := if_pos hkey
  rw [hctr]
  decide

theorem contextLegal_absorbAll {bytes : List Byte} (hs : s.ContextLegal) (hroom : s.ctr.toNat + bytes.length < 2 ^ 64) :
    (s.absorbAll bytes).ContextLegal := by
  have hctr := absorbAll_ctr_toNat s bytes hroom
  rw [absorbAll_frame] at hctr ⊢
  intro hctx
  obtain ⟨h1, h32, hk, htail, hkey⟩ := hs hctx
  exact ⟨h1, h32, hk, htail, fun hpos => by have := hkey hpos; omega⟩

/-- Every command keeps the ranges of the context (10_state.md R59). -/
theorem exec_contextLegal {i : Instr} (hs : s.ContextLegal) (h : exec i s = .next t) : t.ContextLegal := by
  obtain ⟨e, rfl⟩ | ⟨ol, kl, -, h1, h32, hk, rfl⟩ | ⟨n, -, -, hn, hroom, rfl⟩ | ⟨-, hctx, rfl⟩ | ⟨-, hctx, -, rfl⟩
    | ⟨-, hctx, rfl⟩ | ⟨_, -, rfl⟩ := exec_cases h
  · exact hs
  · refine contextLegal_seed (s := s.newContext ol kl) h1 h32 hk fun i hi => ?_
    have hi : ¬ i.val < kl.toNat := Nat.not_lt.2 hi
    rw [State.newContext_skey, Fin.getElem_fin, keyOperand_getElem, if_neg hi]
  · exact contextLegal_absorbAll hs (by rw [updateData_length]; omega)
  · obtain ⟨h1, h32, hk, htail, -⟩ := hs hctx
    exact fun _ => ⟨h1, h32, hk, htail, fun _ => show 64 ≤ sentinel.toNat by decide⟩
  · obtain ⟨h1, h32, hk, htail, -⟩ := hs hctx
    exact contextLegal_seed (s := s.finalize) h1 h32 hk htail
  · obtain ⟨h1, h32, hk, htail, -⟩ := hs hctx
    exact contextLegal_seed h1 h32 hk htail
  · exact contextLegal_of_sameContext hs (sameContext_outputState s _)

/-- Every command that gives no context leaves the blank one (10_state.md R62). -/
theorem exec_blankWithoutContext {i : Instr} (hs : s.BlankWithoutContext) (h : exec i s = .next t) :
    t.BlankWithoutContext := by
  have hlive {u : State} (hu : u.ctx = true) : u.BlankWithoutContext := fun hctx => by
    rw [hu] at hctx
    cases hctx
  obtain ⟨e, rfl⟩ | ⟨ol, kl, -, -, -, -, rfl⟩ | ⟨n, -, hctx, -, -, rfl⟩ | ⟨-, hctx, rfl⟩ | ⟨-, hctx, -, rfl⟩ | ⟨-, hctx, rfl⟩
    | ⟨_, -, rfl⟩ := exec_cases h
  · exact hs
  · exact hlive rfl
  · exact hlive ((absorbAll_ctx s _).trans hctx)
  · exact hlive hctx
  · exact hlive hctx
  · exact hlive hctx
  · exact blankWithoutContext_of_sameContext hs (sameContext_outputState s _)

/-- A digest of at most 32 bytes is zero padded in DOUT (43_output_truncator.md R208). -/
theorem outputLegal_of_truncated {raw : Vector Byte 32} (h32 : s.dlen.toNat ≤ 32)
    (hdout : s.dout = truncateBytes raw s.dlen.toNat) : s.OutputLegal :=
  ⟨h32, fun i hi => by rw [hdout, Fin.getElem_fin, truncateBytes_getElem, if_neg (Nat.not_lt.2 hi)]⟩

/-- Every command keeps the output legal (10_state.md R61). -/
theorem exec_outputLegal {i : Instr} (hctxt : s.ContextLegal) (hs : s.OutputLegal) (h : exec i s = .next t) :
    t.OutputLegal := by
  obtain ⟨e, rfl⟩ | ⟨ol, kl, -, -, -, -, rfl⟩ | ⟨n, -, -, -, -, rfl⟩ | ⟨-, hctx, rfl⟩ | ⟨-, hctx, -, rfl⟩ | ⟨-, -, rfl⟩
    | ⟨_, -, rfl⟩ := exec_cases h
  · exact hs
  · exact ⟨Nat.zero_le _, fun i _ => Vector.getElem_replicate i.isLt⟩
  · rw [absorbAll_frame]
    exact hs
  · obtain ⟨-, h32, -⟩ := hctxt hctx
    exact outputLegal_of_truncated h32 (State.truncateOut_dout s.lastBlock)
  · obtain ⟨-, h32, -⟩ := hctxt hctx
    exact outputLegal_of_truncated h32 (State.truncateOut_dout s.lastBlock)
  · exact hs
  · exact ⟨Nat.le_refl 32, fun i hi => absurd i.isLt (Nat.not_lt.2 hi)⟩

theorem heldByReset_of_deasserted (h : s.resetIn = false) : s.HeldByReset := fun hr => by
  rw [h] at hr
  cases hr

/-- A completed command keeps the invariant: nothing runs while hardware reset is asserted. -/
theorem exec_inv {i : Instr} (hr : s.resetIn = false) (hs : s.Inv) (h : exec i s = .next t) : t.Inv := by
  obtain ⟨hctxt, hblank, hout, -⟩ := hs
  obtain ⟨-, -, htr⟩ := exec_port_frame h
  exact ⟨exec_contextLegal hctxt h, exec_blankWithoutContext hblank h, exec_outputLegal hctxt hout h,
    heldByReset_of_deasserted (htr.trans hr)⟩

/-- Completion clears BUSY, of which the invariant does not speak. -/
theorem inv_complete (hr : s.resetIn = false) (hs : s.Inv) : s.complete.Inv := by
  obtain ⟨hctxt, hblank, hout, -⟩ := hs
  exact ⟨hctxt, hblank, hout, heldByReset_of_deasserted hr⟩

theorem inv_withErr (e : ErrCode) (hr : s.resetIn = false) (hs : s.Inv) : (s.withErr e).Inv := by
  obtain ⟨hctxt, hblank, hout, -⟩ := hs
  exact ⟨hctxt, hblank, hout, heldByReset_of_deasserted hr⟩

theorem inv_of_sameButPort (hr : s.resetIn = false) (hs : s.Inv) (h : SameButPort s t) : t.Inv := by
  obtain ⟨hctxt, hblank, hout, -⟩ := hs
  exact ⟨contextLegal_of_sameContext hctxt h.context, blankWithoutContext_of_sameContext hblank h.context,
    outputLegal_of_eq hout h.dout h.dlen, heldByReset_of_deasserted (h.resetIn.trans hr)⟩

end

/-- Settles O9: hardware reset gives the reset values, a completion keeps the invariant command by command (`exec_inv`), and an
access touches nothing the invariant speaks of. -/
theorem everyStepKeepsTheInvariant : Obligations.EveryStepKeepsTheInvariant := by
  intro s t hs h
  obtain ⟨-, hat, hw⟩ | ⟨he, u, rfl, ⟨i, -, hu⟩ | rfl⟩ | ⟨hr, hkeep⟩ := step_completes_or_sameButPort h
  · exact inv_of_atReset hat hw
  · have hr := resetIn_of_engineTurn he
    obtain ⟨-, -, hur⟩ := exec_port_frame hu
    exact inv_complete (hur.trans hr) (exec_inv hr hs hu)
  · have hr := resetIn_of_engineTurn he
    exact inv_complete hr (inv_withErr _ hr hs)
  · exact inv_of_sameButPort hr hs hkeep

/-- Settles O8: the reset values meet the invariant. -/
theorem resetStateMeetsTheInvariant : Obligations.ResetStateMeetsTheInvariant :=
  inv_of_atReset ⟨_, _, _, _, _, _, rfl⟩ rfl

end Sys2Proof.Machine
end

section
/-! SUPPORT. What changes BUSY, ERR, OVR, CTX and FIN (10_state.md R39, R40, R43 to R45). -/

namespace Sys2Proof.Machine

/-- Settles O28: an access leaves ERR alone. -/
theorem errWrittenOnlyByCompletion : Obligations.ErrWrittenOnlyByCompletion := by
  intro s t h hne
  obtain ⟨hr, -⟩ | ⟨he, -⟩ | ⟨-, hkeep⟩ := step_completes_or_sameButPort h
  · exact .inr hr
  · exact .inl he
  · exact absurd hkeep.err hne

/-- A step changes CTX by a successful INIT or by hardware reset only (10_state.md R39). -/
theorem step_ctx {s t : State} (h : step s = .next t) :
    (s.UnderReset ∧ t.ctx = false) ∨ t.ctx = s.ctx
      ∨ (t.ctx = true ∧ t.err = .success ∧ ∃ outlen keylen, s.Completes (.init outlen keylen)) := by
  obtain ⟨hr, ⟨_, _, _, _, _, _, rfl⟩, -⟩ | ⟨-, u, rfl, ⟨i, hi, hu⟩ | rfl⟩ | ⟨-, hkeep⟩ := step_completes_or_sameButPort h
  · exact .inl ⟨hr, rfl⟩
  · obtain hsame | ⟨hctx, herr, ol, kl, rfl⟩ := exec_ctx hu
    · exact .inr (.inl hsame)
    · exact .inr (.inr ⟨hctx, herr, ol, kl, hi⟩)
  · exact .inr (.inl rfl)
  · obtain ⟨-, -, -, -, -, -, hctx⟩ := hkeep.context
    exact .inr (.inl hctx)

/-- Settles O29: the change of CTX is one of those of `step_ctx`. -/
theorem contextFromInitToHardwareReset : Obligations.ContextFromInitToHardwareReset := by
  intro s t h
  obtain ⟨hr, hctx⟩ | hctx | ⟨hctx, hinit⟩ := step_ctx h
  · exact ⟨fun _ ht => by simp [hctx] at ht, fun _ _ => hr⟩
  · exact ⟨fun hs ht => by simp [hctx, hs] at ht, fun hs ht => by simp [hctx, hs] at ht⟩
  · exact ⟨fun _ _ => hinit, fun _ ht => by simp [hctx] at ht⟩

/-- A step poisons a context by a successful FINAL only, and revives one by INIT, RESET or hardware reset only (10_state.md R40). -/
theorem step_fin {s t : State} (h : step s = .next t) :
    (s.UnderReset ∧ t.fin = false) ∨ t.fin = s.fin ∨ (s.Completes .final ∧ t.err = .success ∧ t.fin = true)
      ∨ (t.fin = false ∧ ((∃ outlen keylen, s.Completes (.init outlen keylen)) ∨ s.Completes .reset)) := by
  obtain ⟨hr, ⟨_, _, _, _, _, _, rfl⟩, -⟩ | ⟨-, u, rfl, ⟨i, hi, hu⟩ | rfl⟩ | ⟨-, hkeep⟩ := step_completes_or_sameButPort h
  · exact .inl ⟨hr, rfl⟩
  · obtain hsame | ⟨rfl, herr, hfin⟩ | ⟨hfin, ⟨ol, kl, rfl⟩ | rfl⟩ := exec_fin hu
    · exact .inr (.inl hsame)
    · exact .inr (.inr (.inl ⟨hi, herr, hfin⟩))
    · exact .inr (.inr (.inr ⟨hfin, .inl ⟨ol, kl, hi⟩⟩))
    · exact .inr (.inr (.inr ⟨hfin, .inr hi⟩))
  · exact .inr (.inl rfl)
  · obtain ⟨-, -, hctr, -, -, -, hctx⟩ := hkeep.context
    exact .inr (.inl (by rw [State.fin, hctr, hctx, State.fin]))

/-- Settles O30: the change of FIN is one of those of `step_fin`. -/
theorem poisonedOnlyByFinal : Obligations.PoisonedOnlyByFinal := by
  intro s t h
  obtain ⟨hr, hfin⟩ | hfin | ⟨hfinal, herr, hfin⟩ | ⟨hfin, hrevived⟩ := step_fin h
  · exact ⟨fun _ ht => by simp [hfin] at ht, fun _ _ => .inr (.inr hr)⟩
  · exact ⟨fun hs ht => by simp [hfin, hs] at ht, fun hs ht => by simp [hfin, hs] at ht⟩
  · exact ⟨fun _ _ => ⟨hfinal, herr⟩, fun _ ht => by simp [hfin] at ht⟩
  · exact ⟨fun _ ht => by simp [hfin] at ht, fun _ _ => hrevived.imp_right .inl⟩

/-- The completion step clears BUSY, whatever the command (60_exceptions.md R236). -/
theorem step_busy_of_engineTurn {s t : State} (he : s.engineTurn = true) (h : step s = .next t) : t.busy = false := by
  rw [step_of_engineTurn he] at h
  obtain ⟨_, u, -, -, rfl⟩ | ⟨_, -, rfl⟩ := engineStep_cases h
  · rfl
  · rfl

/-- Settles O27: BUSY follows `step_effect`; a write changes it as `writeReg_busy` says. -/
theorem busyFromAcceptanceToCompletion : Obligations.BusyFromAcceptanceToCompletion := by
  intro s t h
  refine ⟨fun hs ht => ?_, ?_, fun hs ht => ?_, fun he => ⟨((engineTurn_eq_true s).1 he).2.1, step_busy_of_engineTurn he h⟩⟩
  · obtain ⟨-, ⟨_, _, _, _, _, _, rfl⟩, -⟩ | ⟨-, u, rfl, -⟩ | ⟨off, v, rest, hserve, ha, rfl⟩ | ⟨-, _, _, _, rfl⟩ := step_effect h
    · cases ht
    · cases ht
    · rw [writeReg_busy, State.takeInput_busy, hs, Bool.false_or, beq_iff_eq, ofOff_eq_cmd ha] at ht
      exact ⟨v, rest, ht ▸ hserve⟩
    · exact absurd ht (by simp [hs])
  · rintro - ⟨v, rest, hserve⟩
    rw [step_of_serves_write hserve rfl] at h
    cases h
    rw [(ofOff_eq_cmd rfl).2 rfl, writeReg_busy, beq_self_eq_true, Bool.or_true]
  · obtain ⟨hr, -⟩ | ⟨he, -⟩ | ⟨off, v, rest, -, -, rfl⟩ | ⟨-, _, _, _, rfl⟩ := step_effect h
    · exact .inr hr
    · exact .inl he
    · simp [writeReg_busy, hs] at ht
    · exact absurd ht (by simp [hs])

/-- A step sets OVR by a dropped write only (10_state.md R45). -/
theorem step_ovr_rises {s t : State} (h : step s = .next t) (hs : s.ovr = false) (ht : t.ovr = true) :
    s.busy = true ∧ ∃ off v rest, s.Serves (.write .word off v) rest ∧ GuardedOffset off := by
  obtain ⟨-, ⟨_, _, _, _, _, _, rfl⟩, -⟩ | ⟨-, u, rfl, ⟨i, -, hu⟩ | rfl⟩ | ⟨off, v, rest, hserve, ha, rfl⟩ | ⟨-, _, _, _, rfl⟩ :=
    step_effect h
  · cases ht
  · obtain ⟨-, hovr, -⟩ := exec_port_frame hu
    simp [hovr, hs] at ht
  · simp [hs] at ht
  · by_cases hstatus : Reg.ofOff off = .status
    · simp [hstatus, writeReg_status, hs] at ht
    · simp only [writeReg_ovr _ _ hstatus, State.takeInput_ovr, State.takeInput_busy, hs, Bool.false_or, Bool.and_eq_true,
        isGuarded_ofOff ha] at ht
      exact ⟨ht.1, off, v, rest, hserve, ht.2⟩
  · simp [hs] at ht

/-- A step clears OVR by a write of 1 to bit 3 of STATUS or by hardware reset only (10_state.md R45). -/
theorem step_ovr_falls {s t : State} (h : step s = .next t) (hs : s.ovr = true) (ht : t.ovr = false) :
    (∃ v rest, s.Serves (.write .word 0x04 v) rest ∧ v.getLsbD 3 = true) ∨ s.UnderReset := by
  obtain ⟨hr, -⟩ | ⟨-, u, rfl, ⟨i, -, hu⟩ | rfl⟩ | ⟨off, v, rest, hserve, ha, rfl⟩ | ⟨-, _, _, _, rfl⟩ := step_effect h
  · exact .inr hr
  · obtain ⟨-, hovr, -⟩ := exec_port_frame hu
    simp [hovr, hs] at ht
  · simp [hs] at ht
  · by_cases hstatus : Reg.ofOff off = .status
    · obtain rfl := (ofOff_eq_status ha).1 hstatus
      simp only [hstatus, writeReg_status, State.takeInput_ovr, hs] at ht
      exact .inl ⟨v, rest, hserve, by simpa using ht⟩
    · simp [writeReg_ovr _ _ hstatus, hs] at ht
  · simp [hs] at ht

/-- Settles O17: OVR rises and falls as `step_ovr_rises` and `step_ovr_falls` say, and the two writes always act. -/
theorem ovrSetByDroppedWriteClearedByHost : Obligations.OvrSetByDroppedWriteClearedByHost := by
  intro s t h
  refine ⟨step_ovr_rises h, step_ovr_falls h, fun off v rest hserve hb hg => ?_, fun v rest hserve hv => ?_⟩
  · rw [step_of_serves_write hserve hg.1] at h
    cases h
    rw [writeReg_ovr_of_guarded _ _ ((isGuarded_ofOff hg.1).2 hg), State.takeInput_busy, hb, Bool.or_true]
  · rw [step_of_serves_write hserve rfl, (ofOff_eq_status rfl).2 rfl, writeReg_status] at h
    cases h
    exact if_pos hv

end Sys2Proof.Machine
end

section
/-! SUPPORT. The register window (10_state.md R51 to R57, R62, R63): what each register reads and which accesses have no effect. -/

namespace Sys2Proof.Machine

/-! ## Reset values -/

/-- Settles O6: the arrays are constant, and a block at its reset values reads 0 (`readReg_of_atReset`). -/
theorem resetStateHasTheSpecValues : Obligations.ResetStateHasTheSpecValues := by
  have hrep {n : Nat} {w : Nat} (i : Fin n) : (Vector.replicate n (0 : BitVec w))[i] = 0 := Vector.getElem_replicate i.isLt
  exact ⟨hrep, hrep, rfl, rfl, rfl, hrep, rfl, hrep, rfl, rfl, rfl, rfl, rfl, hrep, hrep, rfl, rfl,
    fun off => readReg_of_atReset ⟨_, _, _, _, _, _, rfl⟩ _⟩

/-! ## STATUS and CFG -/

/-- A slice of a word is known by its bits. -/
theorem extractLsb'_eq_of_bits {w : Word} {start len : Nat} {x : BitVec len}
    (h : ∀ j < len, w.getLsbD (start + j) = x.getLsbD j) : w.extractLsb' start len = x := by
  apply BitVec.eq_of_getLsbD_eq
  intro j hj
  simp [hj, h]

theorem statusWord_err (s : State) : s.statusWord.extractLsb' 4 4 = s.err.code := by
  refine extractLsb'_eq_of_bits fun j hj => ?_
  rw [statusWord_getLsbD, if_neg (by omega), if_neg (by omega), if_neg (by omega), if_neg (by omega), if_pos (by omega),
    Nat.add_sub_cancel_left]

/-- From bit 8 on STATUS holds DLEN (10_state.md R53). -/
theorem statusWord_getLsbD_dlen (s : State) (j : Nat) : s.statusWord.getLsbD (8 + j) = s.dlen.getLsbD j := by
  rw [statusWord_getLsbD, if_neg (by omega), if_neg (by omega), if_neg (by omega), if_neg (by omega), if_neg (by omega),
    Nat.add_sub_cancel_left]

theorem statusWord_dlen (s : State) : s.statusWord.extractLsb' 8 6 = s.dlen :=
  extractLsb'_eq_of_bits fun j _ => statusWord_getLsbD_dlen s j

theorem statusWord_high (s : State) : s.statusWord.extractLsb' 14 18 = 0 := by
  refine extractLsb'_eq_of_bits fun j _ => ?_
  rw [show 14 + j = 8 + (6 + j) by omega, statusWord_getLsbD_dlen, BitVec.getLsbD_of_ge _ _ (by omega)]
  exact BitVec.getLsbD_zero.symm

/-- A one-bit field of STATUS. -/
theorem statusWord_flag {s : State} {i : Nat} {b : Bool} (h : s.statusWord.getLsbD i = b) :
    s.statusWord.extractLsb' i 1 = BitVec.ofBool b := by
  refine extractLsb'_eq_of_bits fun j hj => ?_
  obtain rfl : j = 0 := by omega
  simpa using h

/-- Settles O18: STATUS bit by bit (`statusWord_getLsbD`), and the exact write (`writeReg_status`). -/
theorem statusReadsItsFieldsAndClearsOvr : Obligations.StatusReadsItsFieldsAndClearsOvr := by
  have hstatus : Reg.ofOff 0x04 = .status := (ofOff_eq_status rfl).2 rfl
  refine ⟨fun s => ?_, fun s v rest hserve => ?_⟩
  · have hfin : s.statusWord.getLsbD 2 = true ↔ s.ctx = true ∧ s.ctr.toNat = 2 ^ 64 - 1 := by
      rw [statusWord_getLsbD, ← ctr_eq_sentinel, ← fin_eq_true]
      rfl
    rw [hstatus]
    exact ⟨statusWord_flag (statusWord_getLsbD s 0), statusWord_flag (statusWord_getLsbD s 1), hfin,
      statusWord_flag (statusWord_getLsbD s 3), statusWord_err s, statusWord_dlen s, statusWord_high s⟩
  · rw [step_of_serves_write hserve rfl, hstatus, writeReg_status]
    exact ⟨_, rfl⟩

theorem cfgWord_outlen {s : State} (h : s.ctx = true) : s.cfgWord.extractLsb' 0 6 = s.outlen := by
  refine extractLsb'_eq_of_bits fun j hj => ?_
  rw [cfgWord_getLsbD s h, Nat.zero_add, if_pos hj]

theorem cfgWord_keylen {s : State} (h : s.ctx = true) : s.cfgWord.extractLsb' 8 6 = s.keylen := by
  refine extractLsb'_eq_of_bits fun j hj => ?_
  rw [cfgWord_getLsbD s h, if_neg (by omega), if_neg (by omega), Nat.add_sub_cancel_left]

/-- The bits of CFG outside OUTLEN and KEYLEN read 0 (10_state.md R55). -/
theorem cfgWord_reserved (s : State) : s.cfgWord &&& 0xFFFFC0C0 = 0 := by
  unfold State.cfgWord
  split
  · apply BitVec.eq_of_getLsbD_eq
    intro i hi
    simp only [BitVec.getLsbD_and, BitVec.getLsbD_append, BitVec.getLsbD_zero]
    interval_cases i <;> simp
  · exact BitVec.zero_and

/-! ## The counter and the byte arrays -/

theorem hi32_append_lo32 (c : Counter) : hi32 c ++ lo32 c = c := by
  unfold hi32 lo32
  rw [BitVec.extractLsb'_append_extractLsb'_eq_extractLsb' (by decide)]
  simp

/-- The register that holds byte `k` of an array of registers from word offset `base` on (20_memory.md R74). -/
theorem ofOff_byteArray {base k : Nat} {r : Reg} (hr : r ≠ .reserved) (hslot : r.slot = base / 4 + k / 4) (hbase : base % 4 = 0)
    (hfits : base + k < 256) : Reg.ofOff (BitVec.ofNat 8 (base + 4 * (k / 4))) = r := by
  have hoff : (BitVec.ofNat 8 (base + 4 * (k / 4))).toNat = base + 4 * (k / 4) := by
    rw [BitVec.toNat_ofNat]
    omega
  rw [ofOff_eq_iff (by omega) hr, hoff, hslot]
  omega

/-- DOUTi is little-endian (10_state.md R56, 20_memory.md R74). -/
theorem byteOf_doutWord (s : State) (i : Fin 8) {j : Nat} (hj : j < 4) :
    byteOf (s.doutWord i) j = s.dout[4 * i.val + j] := by
  obtain ⟨h0, h1, h2, h3⟩ := byteOf_wordOfBytes (s.dout[4 * i.val]) (s.dout[4 * i.val + 1]) (s.dout[4 * i.val + 2])
    (s.dout[4 * i.val + 3])
  interval_cases j
  · exact h0
  · exact h1
  · exact h2
  · exact h3

/-- Settles O23: each register at its offset (`ofOff_eq_iff`), field by field and byte by byte. -/
theorem windowReadsTheNamedState : Obligations.WindowReadsTheNamedState := by
  intro s
  refine ⟨rfl, ?_, rfl, fun h => ?_, fun h => ⟨cfgWord_outlen h, cfgWord_keylen h, cfgWord_reserved s⟩, fun k => ?_, fun k => ?_,
    fun k => ?_⟩
  · exact hi32_append_lo32 s.ctr
  · show s.cfgWord = 0
    simp [State.cfgWord, h]
  · rw [ofOff_byteArray (r := .din ⟨k / 4, by omega⟩) (by simp) rfl (by decide) (by omega)]
    exact (ser16_getElem s.din k k.isLt).symm
  · rw [ofOff_byteArray (r := .kin ⟨k / 4, by omega⟩) (by simp) rfl (by decide) (by omega)]
    exact (ser8_getElem s.kin k k.isLt).symm
  · rw [ofOff_byteArray (r := .dout ⟨k / 4, by omega⟩) (by simp) rfl (by decide) (by omega)]
    refine (byteOf_doutWord s ⟨k / 4, by omega⟩ (Nat.mod_lt _ (by decide))).trans ?_
    simp only [Nat.div_add_mod, Fin.getElem_fin]

/-! ## Accesses without effect -/

/-- A write at an offset that is neither guarded nor STATUS leaves the block as it is (10_state.md R54 to R57). -/
theorem step_of_ignored_write {s : State} {off : BitVec 8} {v : Word} {rest : List HostOp}
    (hserve : s.Serves (.write .word off v) rest) (ha : off.toNat % 4 = 0) (hg : ¬ GuardedOffset off) (hs : off ≠ 0x04) :
    ∃ wait, step s = .next { s with host := rest, wait := wait } := by
  have hg : (Reg.ofOff off).isGuarded = false := by
    rw [← Bool.not_eq_true, isGuarded_ofOff ha]
    exact hg
  rw [step_of_serves_write hserve ha, writeReg_of_readOnly _ _ hg (mt (ofOff_eq_status ha).1 hs)]
  exact ⟨_, rfl⟩

/-- Settles O21: a reserved offset is neither guarded nor STATUS. -/
theorem reservedOffsetsReadZeroIgnoreWrites : Obligations.ReservedOffsetsReadZeroIgnoreWrites := by
  intro s off rest hoff
  have hread : s.readReg (Reg.ofOff off) = 0 := by
    rw [ofOff_reserved hoff]
    rfl
  obtain ⟨ha, hrange⟩ := hoff
  refine ⟨hread, fun hserve => ?_, fun v hserve => step_of_ignored_write hserve ha ?_ ?_⟩
  · rw [step_of_serves_read hserve ha, hread]
    exact ⟨_, rfl⟩
  · simp only [GuardedOffset, ← BitVec.toNat_inj, BitVec.reduceToNat] at hrange ⊢
    omega
  · bv_omega

/-- Settles O22: an offset of CFG, CTR or DOUT is neither guarded nor STATUS. -/
theorem readOnlyRegistersIgnoreWrites : Obligations.ReadOnlyRegistersIgnoreWrites := by
  rintro s off v rest hserve ⟨ha, hrange⟩
  refine step_of_ignored_write hserve ha ?_ ?_
  · simp only [GuardedOffset, ← BitVec.toNat_inj, BitVec.reduceToNat] at hrange ⊢
    omega
  · bv_omega

/-! ## Staging writes -/

/-- Settles O20: the step is the write (`step_of_serves_write`), which acts on one staging register. -/
theorem stagingWriteReadsBack : Obligations.StagingWriteReadsBack := by
  intro s off v rest hr hb hh hoff
  have ha : off.toNat % 4 = 0 := hoff.1.1
  have hstaging : (Reg.ofOff off).isStaging = true := (isStaging_ofOff ha).2 hoff
  have hb' : (s.takeInput rest).busy = false := hb
  refine ⟨_, step_of_serves_write ⟨hr, engineTurn_of_not_busy hb, hh⟩ ha, readReg_writeReg_same _ v hb' hstaging, ?_, ?_⟩
  · intro off' ha' hne
    have hreg : Reg.ofOff off' ≠ Reg.ofOff off := mt (ofOff_injective ha ha' ?_) hne
    · rw [readReg_writeReg_other _ v hb' hstaging hreg, readReg_takeInput]
    · intro h
      rw [h] at hstaging
      cases hstaging
  · obtain ⟨din, kin, lo, hi, h⟩ := writeReg_staging_frame (s.takeInput rest) v hb' hstaging
    exact ⟨din, kin, lo, hi, _, h⟩

/-! ## What a command changes of the window -/

section
variable {i : Instr} {s t : State}

/-- What a register besides STATUS reads after a command that may not write it (10_state.md R33 to R42). -/
theorem exec_readReg (h : exec i s = .next t) {r : Reg} (hstatus : r ≠ .status)
    (hcfg : r = .cfg → ∀ outlen keylen, i ≠ .init outlen keylen)
    (hctr : r = .ctrLo ∨ r = .ctrHi → ∃ last, i = .compress last)
    (hdout : ∀ j, r = .dout j → (∃ n, i = .update n) ∨ i = .reset) : t.readReg r = s.readReg r := by
  obtain ⟨hdin, hkin, hlo, hhi⟩ := exec_staging h
  cases r with
  | cmd | reserved => rfl
  | status => exact absurd rfl hstatus
  | cfg =>
    obtain ⟨hctx, hol, hkl⟩ := exec_config h (hcfg rfl)
    simp only [State.readReg, State.cfgWord, hctx, hol, hkl]
  | ctrLo =>
    obtain ⟨last, rfl⟩ := hctr (.inl rfl)
    simp only [State.readReg, exec_compress_ctr h]
  | ctrHi =>
    obtain ⟨last, rfl⟩ := hctr (.inr rfl)
    simp only [State.readReg, exec_compress_ctr h]
  | ctrinLo => exact hlo
  | ctrinHi => exact hhi
  | din j => simp only [State.readReg, hdin]
  | kin j => simp only [State.readReg, hkin]
  | dout j =>
    have hsame : t.dout = s.dout := by
      obtain ⟨n, rfl⟩ | rfl := hdout j rfl
      · exact exec_update_dout h
      · exact exec_reset_dout h
    simp only [State.readReg, State.doutWord, hsame]

end

/-- Settles O34: `exec_readReg` at the register of the offset. -/
theorem commandsChangeOnlyTheseRegisters : Obligations.CommandsChangeOnlyTheseRegisters := by
  intro i s t off h ha hstatus hcfg hctr hdout
  refine exec_readReg h (mt (ofOff_eq_status ha).1 hstatus) (fun hr => hcfg ?_) (fun hr => hctr ?_) (fun j hr => hdout ?_)
  · exact (ofOff_eq_iff_eq ha (by decide) rfl).1 hr
  · exact hr.imp (ofOff_eq_iff_eq ha (by decide) rfl).1 (ofOff_eq_iff_eq ha (by decide) rfl).1
  · have hslot : off.toNat = 4 * (40 + j.val) := (ofOff_eq_iff ha (by simp)).1 hr
    have := j.isLt
    omega

end Sys2Proof.Machine
end

section
/-! SUPPORT. H, BUF and SKEY reach the Host through a digest only (10_state.md R64, 60_exceptions.md R240). The proof's one idea: up to
those three, a step of a state and of its public part answer alike, and two states with one public part so answer alike too. -/

namespace Sys2Proof.Machine

theorem readReg_public (s : State) (r : Reg) : s.public.readReg r = s.readReg r := by
  cases r <;> rfl

/-- Answers that agree up to H, BUF and SKEY: both stop for one reason, or both go on. -/
theorem mapNext_public_next {a : Result} {t : State} (h : mapNext State.public a = .next t.public) :
    ∃ t', a = .next t' ∧ t.public = t'.public := by
  cases a with
  | next t' => exact ⟨t', rfl, (Host.Outcome.next.inj h).symm⟩
  | fault r => cases h
  | refused r => cases h

/-- Two answers of one branching agree when they do in each branch. -/
theorem mapNext_ite {f : State → State} {c : Prop} [Decidable c] {a a' b b' : Result} (ha : mapNext f a = mapNext f a')
    (hb : mapNext f b = mapNext f b') : mapNext f (if c then a else b) = mapNext f (if c then a' else b') := by
  split
  · exact ha
  · exact hb

/-! ## The Host's side: an access neither reads nor writes the hidden state -/

section
variable (s : State)

theorem writeReg_public (v : Word) (r : Reg) : (s.writeReg v r).public = s.public.writeReg v r := by
  have hid (s' : State) : (s.ifIdle s').public = s.public.ifIdle s'.public := by
    show (if s.busy then _ else _ : State).public = if s.busy then _ else _
    split <;> rfl
  cases r with
  | cmd | ctrinLo | ctrinHi | din | kin => exact hid _
  | status =>
    rw [writeReg_status, writeReg_status]
    rfl
  | cfg | ctrLo | ctrHi | dout | reserved => rfl

theorem pollOnce_public : s.pollOnce.public = s.public.pollOnce := by
  have hstatus : s.public.statusWord = s.statusWord := readReg_public s .status
  unfold State.pollOnce
  rw [hstatus]
  split <;> rfl

theorem stopOnErr_public (n : Nat) : (s.stopOnErr n).public = s.public.stopOnErr n := by
  have hstatus : s.public.statusWord = s.statusWord := readReg_public s .status
  unfold State.stopOnErr
  rw [hstatus]
  split <;> rfl

theorem serve_public (op : HostOp) : mapNext State.public (serve op s) = serve op s.public := by
  cases op with
  | read width off =>
    simp only [serve, serveRead, readReg_public]
    split <;> rfl
  | write width off v =>
    simp only [serve, serveWrite, ← writeReg_public]
    split <;> rfl
  | poll => exact congrArg Host.Outcome.next (pollOnce_public s)
  | skipIfErr n => exact congrArg Host.Outcome.next (stopOnErr_public s n)
  | assertReset | releaseReset => rfl

theorem hostStep_public : mapNext State.public (hostStep s) = hostStep s.public := by
  have hhost : s.public.host = s.host := rfl
  unfold hostStep
  rw [hhost]
  cases s.host with
  | nil => rfl
  | cons op rest => exact serve_public (s.takeInput rest) op

/-- A step under hardware reset does not even depend on the hidden state (70_reset_and_hazards.md R250). -/
theorem heldStep_public : heldStep s.public = heldStep s := rfl

end

/-! ## The Engine's side: the new hidden state of a command shows only in a digest -/

section
variable (s : State)

@[simp] theorem State.public_pend : s.public.pend = s.pend := rfl

theorem absorbAll_public (bytes : List Byte) : (s.absorbAll bytes).public = (s.public.absorbAll bytes).public := by
  rw [absorbAll_frame s, absorbAll_frame s.public]
  rfl

theorem seed_public : s.seed.public = s.public.seed.public := by
  simp only [State.seed, State.public]
  rfl

theorem execInit_public (outlen keylen : BitVec 6) :
    mapNext State.public (execInit outlen keylen s) = mapNext State.public (execInit outlen keylen s.public) :=
  mapNext_ite rfl <| mapNext_ite rfl rfl

theorem execUpdate_public (n : BitVec 7) :
    mapNext State.public (execUpdate n s) = mapNext State.public (execUpdate n s.public) :=
  mapNext_ite rfl <| mapNext_ite rfl <| mapNext_ite rfl <| mapNext_ite rfl <|
    congrArg (fun u => mapNext (State.withErr .success) (.next u)) (absorbAll_public s (s.updateData n.toNat))

theorem execReset_public : mapNext State.public (execReset s) = mapNext State.public (execReset s.public) :=
  mapNext_ite rfl <| congrArg (fun u => mapNext (State.withErr .success) (.next u)) (seed_public s)

theorem execCompress_public (last : Bool) :
    mapNext State.public (execCompress last s) = mapNext State.public (execCompress last s.public) := by
  have houtput (st : Vector Word 8) : (s.outputState st).public = (s.public.outputState st).public := by
    simp only [State.outputState, State.public]
  exact congrArg (fun u => mapNext (State.withErr .success) (.next u)) (houtput (compressF s.kin s.dinb s.ctrin last))

/-- Every command but FINAL and FINAL_RESET answers alike up to H, BUF and SKEY, whatever these were. -/
theorem exec_public {i : Instr} (hfinal : i ≠ .final) (hreset : i ≠ .finalReset) :
    mapNext State.public (exec i s) = mapNext State.public (exec i s.public) := by
  cases i with
  | init outlen keylen => exact execInit_public s outlen keylen
  | update n => exact execUpdate_public s n
  | final => exact absurd rfl hfinal
  | finalReset => exact absurd rfl hreset
  | reset => exact execReset_public s
  | compress last => exact execCompress_public s last

theorem mapNext_complete_public (a : Result) :
    mapNext State.public (mapNext State.complete a) = mapNext State.complete (mapNext State.public a) := by
  cases a <;> rfl

theorem engineStep_public (hfinal : decode s.pend ≠ .ok .final) (hreset : decode s.pend ≠ .ok .finalReset) :
    mapNext State.public (engineStep s) = mapNext State.public (engineStep s.public) := by
  have hrun : mapNext State.public s.runPending = mapNext State.public s.public.runPending := by
    unfold State.runPending
    rw [State.public_pend]
    cases hd : decode s.pend with
    | ok i => exact exec_public s (fun h => hfinal (h ▸ hd)) fun h => hreset (h ▸ hd)
    | error r => rfl
  rw [engineStep, mapNext_complete_public, hrun, ← mapNext_complete_public, engineStep]

/-! ## Steps -/

/-- Up to H, BUF and SKEY a step depends on the public part of the state, unless it completes FINAL or FINAL_RESET. -/
theorem step_public (hfinal : ¬ s.Completes .final) (hreset : ¬ s.Completes .finalReset) :
    mapNext State.public (step s) = mapNext State.public (step s.public) := by
  cases hr : s.resetIn with
  | true => rw [step_of_resetIn hr, step_of_resetIn (s := s.public) hr, heldStep_public]
  | false =>
    cases he : s.engineTurn with
    | true =>
      rw [step_of_engineTurn he, step_of_engineTurn (s := s.public) he]
      exact engineStep_public s (fun hd => hfinal ⟨he, hd⟩) fun hd => hreset ⟨he, hd⟩
    | false =>
      rw [step_of_hostTurn hr he, step_of_hostTurn (s := s.public) hr he, hostStep_public, hostStep_public]
      rfl

/-- What completes is public. -/
theorem completes_public (i : Instr) : s.public.Completes i ↔ s.Completes i := Iff.rfl

end

/-- Settles O26: both states step as their common public part does (`step_public`). -/
theorem hiddenStateReachesHostOnlyByDigest : Obligations.HiddenStateReachesHostOnlyByDigest := by
  intro s s' t hsame hfinal hreset h
  have hs' (i : Instr) : s'.Completes i ↔ s.Completes i := by
    rw [← completes_public, ← hsame, completes_public]
  have heq : mapNext State.public (step s') = .next t.public := calc
    mapNext State.public (step s') = mapNext State.public (step s'.public) :=
      step_public s' (mt (hs' _).1 hfinal) (mt (hs' _).1 hreset)
    _ = mapNext State.public (step s) := by rw [← hsame, ← step_public s hfinal hreset]
    _ = .next t.public := by rw [h, mapNext_next]
  obtain ⟨t', ht', hpublic⟩ := mapNext_public_next heq
  refine ⟨t', ht', hpublic, fun r => ?_⟩
  rw [← readReg_public t, hpublic, readReg_public]

end Sys2Proof.Machine
end

section
/-! SUPPORT. The port as the Host sees it (20_memory.md R72, R76, R77, R84): reads, which accesses have a step, and a command
that no input disturbs. -/

namespace Sys2Proof.Machine

/-! ## Reads -/

/-- Settles O19: the step is the read (`step_of_serves_read`), which writes the queue, `wait` and the replies only. -/
theorem readsHaveNoSideEffect : Obligations.ReadsHaveNoSideEffect := by
  intro s off rest hserve ha
  exact ⟨_, step_of_serves_read hserve ha⟩

/-! ## Which inputs have a step -/

theorem admitted_eq_true (width : Width) (off : BitVec 8) :
    admitted width off = true ↔ width = .word ∧ off.toNat % 4 = 0 := by
  simp [admitted]

/-- The input is a read or a write of this width at this offset (20_memory.md R71). -/
def HostOp.Accesses (op : HostOp) (width : Width) (off : BitVec 8) : Prop :=
  op = .read width off ∨ ∃ v, op = .write width off v

section
variable {op : HostOp} {s : State}

theorem enabled_of_accesses {width : Width} {off : BitVec 8} (h : op.Accesses width off) :
    op.enabled = admitted width off := by
  obtain rfl | ⟨v, rfl⟩ := h
  · rfl
  · rfl

theorem hostReady_eq_enabled {rest : List HostOp} (hh : s.host = op :: rest) : s.hostReady = op.enabled := by
  rw [State.hostReady, hh]

/-- An input that has a step is answered by one. -/
theorem serve_answers_next (h : op.enabled = true) (s : State) : ∃ t, serve op s = .next t := by
  cases op with
  | read width off => exact ⟨_, if_pos h⟩
  | write width off v => exact ⟨_, if_pos h⟩
  | poll | skipIfErr | assertReset | releaseReset => exact ⟨_, rfl⟩

/-- The same inputs have a step while hardware reset is asserted (70_reset_and_hazards.md R250). -/
theorem serveHeld_answers_next (h : op.enabled = true) (s : State) : ∃ t, serveHeld op s = .next t := by
  cases op with
  | read width off => exact ⟨_, if_pos h⟩
  | write width off v => exact ⟨_, if_pos h⟩
  | poll | skipIfErr | assertReset | releaseReset => exact ⟨_, rfl⟩

/-- An access that is not admitted is refused by name, hardware reset asserted or not (20_memory.md R72). -/
theorem serve_of_unadmitted {width : Width} {off : BitVec 8} (hop : op.Accesses width off)
    (h : ¬ admitted width off = true) (s : State) :
    serve op s = .refused (.unadmittedAccess width off) ∧ serveHeld op s = .refused (.unadmittedAccess width off) := by
  obtain rfl | ⟨v, rfl⟩ := hop
  · exact ⟨if_neg h, if_neg h⟩
  · exact ⟨if_neg h, if_neg h⟩

/-- A running command always has its completion (60_exceptions.md R236). -/
theorem engineStep_answers_next (s : State) : ∃ t, engineStep s = .next t := by
  unfold engineStep State.runPending
  cases decode s.pend with
  | ok i =>
    obtain ⟨u, hu⟩ := exec_answers_next i s
    exact ⟨u.complete, by simp only [hu, mapNext_next]⟩
  | error _ => exact ⟨_, rfl⟩

variable {rest : List HostOp} (hh : s.host = op :: rest)
include hh

theorem step_of_resetIn_cons (hr : s.resetIn = true) : step s = serveHeld op (s.hardwareReset.takeInput rest) := by
  rw [step_of_resetIn hr, heldStep, hh]

/-- A Host with an input that has a step is never stuck: under reset, waiting for a completion, or served. -/
theorem step_answers_next_of_enabled (h : op.enabled = true) : ∃ t, step s = .next t := by
  cases hr : s.resetIn with
  | true =>
    rw [step_of_resetIn_cons hh hr]
    exact serveHeld_answers_next h _
  | false =>
    cases he : s.engineTurn with
    | true =>
      rw [step_of_engineTurn he]
      exact engineStep_answers_next s
    | false =>
      rw [step_of_serves ⟨hr, he, hh⟩]
      exact serve_answers_next h _

/-- A block that completes nothing refuses an access that is not admitted (20_memory.md R72, R77). -/
theorem step_of_unadmitted {width : Width} {off : BitVec 8} (hop : op.Accesses width off)
    (h : ¬ admitted width off = true) (hidle : s.busy = false ∨ s.resetIn = true) :
    step s = .refused (.unadmittedAccess width off) := by
  cases hr : s.resetIn with
  | true =>
    obtain ⟨-, hheld⟩ := serve_of_unadmitted hop h (s.hardwareReset.takeInput rest)
    rw [step_of_resetIn_cons hh hr, hheld]
  | false =>
    have hb : s.busy = false := hidle.resolve_right (by simp [hr])
    obtain ⟨hserve, -⟩ := serve_of_unadmitted hop h (s.takeInput rest)
    rw [step_of_serves ⟨hr, engineTurn_of_not_busy hb, hh⟩, hserve]

/-- A stuck Host leaves the turn to the running command (log entry 6). -/
theorem engineTurn_of_not_enabled (h : ¬ op.enabled = true) (hb : s.busy = true) (hr : s.resetIn = false) :
    s.engineTurn = true := by
  rw [← hostReady_eq_enabled hh, Bool.not_eq_true] at h
  exact (engineTurn_eq_true s).2 ⟨hr, hb, .inr h⟩

end

/-- Settles O24: an access has a step exactly when it is admitted (`enabled_of_accesses`), and each clause is the answer of
`step` to an input of that kind. -/
theorem onlyAlignedWordAccessesAreAdmitted : Obligations.OnlyAlignedWordAccessesAreAdmitted := by
  intro s width off v rest hhost
  obtain ⟨op, hop, hh⟩ : ∃ op : HostOp, op.Accesses width off ∧ s.host = op :: rest := by
    obtain hh | hh := hhost
    · exact ⟨_, .inl rfl, hh⟩
    · exact ⟨_, .inr ⟨v, rfl⟩, hh⟩
  rw [← admitted_eq_true]
  refine ⟨fun h => ?_, step_of_unadmitted hh hop, fun h hb hr => ?_⟩
  · exact step_answers_next_of_enabled hh ((enabled_of_accesses hop).trans h)
  · rw [← enabled_of_accesses hop] at h
    exact step_of_engineTurn (engineTurn_of_not_enabled hh h hb hr)

/-! ## Runs of a busy block -/

theorem runFor_succ_of_step {s u : State} (h : step s = .next u) (k : Nat) : runFor (k + 1) s = runFor k u := by
  rw [runFor, h]

/-- A run that goes on has made its first step. -/
theorem step_of_runFor_succ {k : Nat} {s t : State} (h : runFor (k + 1) s = .next t) :
    ∃ u, step s = .next u ∧ runFor k u = .next t := by
  rw [runFor] at h
  cases hstep : step s with
  | next u =>
    rw [hstep] at h
    exact ⟨u, rfl, h⟩
  | fault r => cases r
  | refused r =>
    rw [hstep] at h
    cases h

/-- While a command keeps running, a step changes only OVR of the block: it is no completion and no reset, which clear BUSY, and
a write to a busy block leaves everything else (20_memory.md R76, R84). -/
theorem step_while_busy {s t : State} (h : step s = .next t) (hs : s.busy = true) (ht : t.busy = true) :
    ∃ ovr host replies wait, t = { s with ovr := ovr, host := host, replies := replies, wait := wait } := by
  obtain ⟨-, ⟨_, _, _, _, _, _, rfl⟩, -⟩ | ⟨-, u, rfl, -⟩ | ⟨off, v, rest, -, -, rfl⟩ | ⟨-, host, replies, wait, rfl⟩ :=
    step_effect h
  · cases ht
  · cases ht
  · obtain ⟨ovr, hw⟩ := writeReg_of_busy (s := s.takeInput rest) hs v (Reg.ofOff off)
    exact ⟨ovr, rest, s.replies, _, hw⟩
  · exact ⟨s.ovr, host, replies, wait, rfl⟩

/-- The same of a run, step by step. -/
theorem runFor_while_busy {k : Nat} {s t : State} (hbusy : ∀ j u, j ≤ k → runFor j s = .next u → u.busy = true)
    (h : runFor k s = .next t) :
    ∃ ovr host replies wait, t = { s with ovr := ovr, host := host, replies := replies, wait := wait } := by
  induction k generalizing s with
  | zero =>
    cases h
    exact ⟨_, _, _, _, rfl⟩
  | succ k ih =>
    obtain ⟨u, hstep, hrun⟩ := step_of_runFor_succ h
    have hs : s.busy = true := hbusy 0 s (Nat.zero_le _) rfl
    have htail (j : Nat) (v : State) (hj : j ≤ k) (hv : runFor j u = .next v) : v.busy = true :=
      hbusy (j + 1) v (Nat.succ_le_succ hj) ((runFor_succ_of_step hstep j).trans hv)
    obtain ⟨_, _, _, _, rfl⟩ := step_while_busy hstep hs (htail 0 u (Nat.zero_le _) rfl)
    obtain ⟨_, _, _, _, rfl⟩ := ih htail hrun
    exact ⟨_, _, _, _, rfl⟩

/-- Settles O13: by `runFor_while_busy` the run changes OVR and the outside world's fields only. -/
theorem runningCommandIsNotDisturbed : Obligations.RunningCommandIsNotDisturbed := by
  intro k s t hbusy h
  obtain ⟨_, _, _, _, rfl⟩ := runFor_while_busy hbusy h
  exact ⟨rfl, rfl, rfl, rfl, ⟨rfl, rfl, rfl, rfl, rfl, rfl, rfl⟩, rfl, rfl, rfl⟩

end Sys2Proof.Machine
end

section
/-! SUPPORT. The command word (30_encoding.md R90 to R107): operand fields at their places, the rows of the match and mask table,
and decode and encode as inverse to each other. -/

namespace Sys2Proof

open Sys2Proof.Machine (extractLsb'_eq_of_bits)

/-! ## Operand fields -/

/-- A word with one operand field from bit `start` on and 0 elsewhere (30_encoding.md R91 to R94). -/
def placeField (start : Nat) {n : Nat} (x : BitVec n) : Word := x.setWidth 32 <<< start

section
variable {n : Nat} (x : BitVec n)

theorem placeField_getLsbD (start j : Nat) :
    (placeField start x).getLsbD j = (decide (start ≤ j ∧ j < 32) && x.getLsbD (j - start)) := by
  unfold placeField
  grind

theorem extractLsb'_placeField {start : Nat} (h : start + n ≤ 32) : (placeField start x).extractLsb' start n = x := by
  refine extractLsb'_eq_of_bits fun j hj => ?_
  have hword : start + j < 32 := by omega
  rw [placeField_getLsbD, Nat.add_sub_cancel_left]
  simp [hword]

/-- Every other field of the word reads 0. -/
theorem extractLsb'_placeField_of_disjoint {start start' n' : Nat} (h : start' + n' ≤ start ∨ start + n ≤ start') :
    (placeField start x).extractLsb' start' n' = 0 := by
  refine extractLsb'_eq_of_bits fun j hj => ?_
  rw [placeField_getLsbD, BitVec.ofNat_eq_ofNat, BitVec.getLsbD_zero]
  obtain hbelow | habove := h
  · rw [decide_eq_false (by omega), Bool.false_and]
  · rw [BitVec.getLsbD_of_ge _ _ (by omega), Bool.and_false]

/-- A mask that is 0 on the field clears the operand. -/
theorem placeField_and_of_mask_zero {start : Nat} {mask : Word} (h : mask.extractLsb' start n = 0) :
    placeField start x &&& mask = 0 := by
  apply BitVec.eq_of_getLsbD_eq
  intro j hj
  have hmask : (mask.extractLsb' start n).getLsbD (j - start) = false := by
    rw [h]
    exact BitVec.getLsbD_zero
  rw [BitVec.getLsbD_and, placeField_getLsbD, BitVec.ofNat_eq_ofNat, BitVec.getLsbD_zero]
  grind

end

/-- A field of a word, put back to its place, is the part of the word there. -/
theorem placeField_extractLsb' (w : Word) (start n : Nat) :
    placeField start (w.extractLsb' start n) = w &&& placeField start (BitVec.allOnes n) := by
  apply BitVec.eq_of_getLsbD_eq
  intro j hj
  rw [BitVec.getLsbD_and, placeField_getLsbD, placeField_getLsbD]
  grind

theorem ofBool_lastField (w : Word) : BitVec.ofBool (lastField w) = w.extractLsb' 8 1 := by
  refine (extractLsb'_eq_of_bits fun j hj => ?_).symm
  obtain rfl : j = 0 := by omega
  simp [lastField]

/-! ## The rows of the match and mask table -/

/-- A word is its OP field and the rest. -/
theorem word_eq_iff_opField (x y : Word) : x = y ↔ opField x = opField y ∧ x &&& 0xFFFFFFF0 = y &&& 0xFFFFFFF0 := by
  constructor
  · rintro rfl
    exact ⟨rfl, rfl⟩
  · rintro ⟨hop, hrest⟩
    have hsplit (w : Word) : w = placeField 0 (opField w) ||| (w &&& 0xFFFFFFF0) := by
      rw [opField, placeField_extractLsb', ← BitVec.and_or_distrib_left]
      exact BitVec.and_allOnes.symm
    rw [hsplit x, hsplit y, hop, hrest]

theorem selects_eq_true (r : MatchRow) (w : Word) : r.selects w = true ↔ w &&& r.mask = r.pattern := by
  rw [MatchRow.selects, beq_iff_eq]

/-- A row that fixes OP and asks 0 of every other bit of its mask is the test of OP and of the reserved bits. -/
theorem selects_iff_opField {r : MatchRow} (hmask : opField r.mask = 0xF) (hpattern : r.pattern &&& 0xFFFFFFF0 = 0) (w : Word) :
    r.selects w = true ↔ opField w = opField r.pattern ∧ w &&& (r.mask &&& 0xFFFFFFF0) = 0 := by
  have hop : opField (w &&& r.mask) = opField w := by
    rw [opField, BitVec.extractLsb'_and, ← opField, ← opField, hmask]
    exact BitVec.and_allOnes
  rw [selects_eq_true, word_eq_iff_opField, hop, hpattern, BitVec.and_assoc]

/-- The rows fix OP, each to its own value (30_encoding.md R96). -/
theorem matchTable_opFields :
    (∀ r ∈ matchTable, opField r.mask = 0xF ∧ r.pattern &&& 0xFFFFFFF0 = 0)
      ∧ ∀ r ∈ matchTable, ∀ r' ∈ matchTable, opField r.pattern = opField r'.pattern → r = r' := by decide

/-- At most one row selects a word, because rows differ in OP (30_encoding.md R96). -/
theorem matchRow_unique {r r' : MatchRow} (hr : r ∈ matchTable) (hr' : r' ∈ matchTable) {w : Word}
    (h : r.selects w = true) (h' : r'.selects w = true) : r = r' := by
  obtain ⟨hfixed, hdistinct⟩ := matchTable_opFields
  obtain ⟨hmask, hpattern⟩ := hfixed r hr
  obtain ⟨hmask', hpattern'⟩ := hfixed r' hr'
  obtain ⟨hop, -⟩ := (selects_iff_opField hmask hpattern w).1 h
  obtain ⟨hop', -⟩ := (selects_iff_opField hmask' hpattern' w).1 h'
  exact hdistinct r hr r' hr' (hop.symm.trans hop')

/-! ## Decode by match and mask -/

/-- The command of the same row with the operands read from the free fields of a word (30_encoding.md R97). -/
def Instr.withFieldsOf (w : Word) : Instr → Instr
  | .init _ _ => .init (outlenField w) (keylenField w)
  | .update _ => .update (nbytesField w)
  | .final => .final
  | .finalReset => .finalReset
  | .reset => .reset
  | .compress _ => .compress (lastField w)

/-- The bits of a command's format that must be 0 (30_encoding.md R91 to R94). -/
def Instr.reservedMask : Instr → Word
  | .init _ _ => 0xFFC0C0F0
  | .update _ => 0xFFFF80F0
  | .final => 0xFFFFFFF0
  | .finalReset => 0xFFFFFFF0
  | .reset => 0xFFFFFFF0
  | .compress _ => 0xFFFFFEF0

theorem matchRow_mem_matchTable (i : Instr) : i.matchRow ∈ matchTable := by
  cases i <;> simp [matchTable, Instr.matchRow]

theorem opField_matchRow_pattern (i : Instr) : opField i.matchRow.pattern = i.opcode := by
  cases i <;> rfl

theorem matchRow_mask_and_rest (i : Instr) : i.matchRow.mask &&& 0xFFFFFFF0 = i.reservedMask := by
  cases i with
  | init | update | compress =>
    rw [Instr.matchRow, Instr.reservedMask]
    decide
  | final | finalReset | reset => rfl

theorem selects_matchRow_iff (i : Instr) (w : Word) :
    i.matchRow.selects w = true ↔ opField w = i.opcode ∧ w &&& i.reservedMask = 0 := by
  obtain ⟨hmask, hpattern⟩ := matchTable_opFields.1 _ (matchRow_mem_matchTable i)
  rw [selects_iff_opField hmask hpattern, opField_matchRow_pattern, matchRow_mask_and_rest]

theorem ifReservedZero_eq_ok (w mask : Word) (i j : Instr) : ifReservedZero w mask i = .ok j ↔ w &&& mask = 0 ∧ i = j := by
  unfold ifReservedZero
  split <;> simp_all

/-- What a branch of the decoder that only tests the reserved bits has established. -/
theorem selects_of_ifReservedZero {w : Word} {i j : Instr} (hop : opField w = i.opcode) (hfields : i.withFieldsOf w = i)
    (hwf : i.wellFormed = true) (h : ifReservedZero w i.reservedMask i = .ok j) :
    j.matchRow.selects w = true ∧ j.withFieldsOf w = j ∧ j.wellFormed = true := by
  obtain ⟨hres, rfl⟩ := (ifReservedZero_eq_ok ..).1 h
  exact ⟨(selects_matchRow_iff i w).2 ⟨hop, hres⟩, hfields, hwf⟩

/-- The decoder finds the command whose row selects the word, with the word's free fields (30_encoding.md R96, R100, R101). -/
theorem decode_eq_ok_iff (w : Word) (i : Instr) :
    decode w = .ok i ↔ i.matchRow.selects w = true ∧ i.withFieldsOf w = i ∧ i.wellFormed = true := by
  constructor
  · intro h
    unfold decode at h
    split_ifs at h with hinit hupdate hres hn hfinal hfinalReset hreset hcompress
    · exact selects_of_ifReservedZero (i := .init _ _) hinit rfl rfl h
    · cases h
      have hn : (Instr.update (nbytesField w)).wellFormed = true := decide_eq_true (Nat.le_of_not_lt hn)
      exact ⟨(selects_matchRow_iff _ w).2 ⟨hupdate, not_not.1 hres⟩, rfl, hn⟩
    · exact selects_of_ifReservedZero (i := .final) hfinal rfl rfl h
    · exact selects_of_ifReservedZero (i := .finalReset) hfinalReset rfl rfl h
    · exact selects_of_ifReservedZero (i := .reset) hreset rfl rfl h
    · exact selects_of_ifReservedZero (i := .compress _) hcompress rfl rfl h
  · rintro ⟨hsel, hfields, hwf⟩
    obtain ⟨hop, hres⟩ := (selects_matchRow_iff i w).1 hsel
    have htest : ifReservedZero w i.reservedMask (i.withFieldsOf w) = .ok i := (ifReservedZero_eq_ok ..).2 ⟨hres, hfields⟩
    cases i with
    | update nbytes =>
      obtain rfl : nbytesField w = nbytes := Instr.update.inj hfields
      have hn : ¬ 64 < (nbytesField w).toNat := Nat.not_lt.2 (of_decide_eq_true hwf)
      simpa [decode, hop, hn, Instr.opcode, Instr.reservedMask] using hres
    | init | final | finalReset | reset | compress =>
      simpa [decode, hop, Instr.opcode, Instr.reservedMask, Instr.withFieldsOf] using htest

/-! ## Encode -/

theorem selects_encode (i : Instr) : i.matchRow.selects (encode i) = true := by
  rw [selects_eq_true]
  cases i with
  | init outlen keylen =>
    show (1 ||| placeField 16 keylen ||| placeField 8 outlen) &&& 0xFFC0C0FF = 1
    rw [BitVec.and_or_distrib_right, BitVec.and_or_distrib_right, placeField_and_of_mask_zero _ rfl,
      placeField_and_of_mask_zero _ rfl]
    rfl
  | update nbytes =>
    show (2 ||| placeField 8 nbytes) &&& 0xFFFF80FF = 2
    rw [BitVec.and_or_distrib_right, placeField_and_of_mask_zero _ rfl]
    rfl
  | final | finalReset | reset => rfl
  | compress last => cases last <;> rfl

theorem withFieldsOf_encode (i : Instr) : i.withFieldsOf (encode i) = i := by
  cases i with
  | init outlen keylen =>
    have houtlen : (1 ||| placeField 16 keylen ||| placeField 8 outlen).extractLsb' 8 6 = outlen := by
      rw [BitVec.extractLsb'_or, BitVec.extractLsb'_or, extractLsb'_placeField _ (by decide),
        extractLsb'_placeField_of_disjoint _ (by decide)]
      exact BitVec.zero_or
    have hkeylen : (1 ||| placeField 16 keylen ||| placeField 8 outlen).extractLsb' 16 6 = keylen := by
      rw [BitVec.extractLsb'_or, BitVec.extractLsb'_or, extractLsb'_placeField _ (by decide),
        extractLsb'_placeField_of_disjoint _ (by decide)]
      exact BitVec.or_zero.trans BitVec.zero_or
    exact congrArg₂ Instr.init houtlen hkeylen
  | update nbytes =>
    have hnbytes : (2 ||| placeField 8 nbytes).extractLsb' 8 7 = nbytes := by
      rw [BitVec.extractLsb'_or, extractLsb'_placeField _ (by decide)]
      exact BitVec.zero_or
    exact congrArg Instr.update hnbytes
  | final | finalReset | reset => rfl
  | compress last => cases last <;> rfl

/-- The masks and the free fields cover the word, so a selected word is the encoding of what it says. -/
theorem encode_withFieldsOf {i : Instr} {w : Word} (h : i.matchRow.selects w = true) : encode (i.withFieldsOf w) = w := by
  rw [selects_eq_true] at h
  have hcover {free : Word} (hfree : i.matchRow.mask ||| free = BitVec.allOnes 32) :
      i.matchRow.pattern ||| (w &&& free) = w := by
    rw [← h, ← BitVec.and_or_distrib_left, hfree, BitVec.and_allOnes]
  cases i with
  | init outlen keylen =>
    show 1 ||| placeField 16 (keylenField w) ||| placeField 8 (outlenField w) = w
    rw [keylenField, outlenField, placeField_extractLsb', placeField_extractLsb', BitVec.or_assoc,
      ← BitVec.and_or_distrib_left]
    exact hcover (by rw [Instr.matchRow]; decide)
  | update nbytes =>
    show 2 ||| placeField 8 (nbytesField w) = w
    rw [nbytesField, placeField_extractLsb']
    exact hcover (by rw [Instr.matchRow]; decide)
  | final | finalReset | reset => exact h.symm.trans BitVec.and_allOnes
  | compress last =>
    show 6 ||| placeField 8 (BitVec.ofBool (lastField w)) = w
    rw [ofBool_lastField, placeField_extractLsb']
    exact hcover (by rw [Instr.matchRow]; decide)

/-- A word is the encoding of a command when the command's row selects it and its free fields are the operands. -/
theorem encode_eq_iff (i : Instr) (w : Word) : encode i = w ↔ i.matchRow.selects w = true ∧ i.withFieldsOf w = i := by
  constructor
  · rintro rfl
    exact ⟨selects_encode i, withFieldsOf_encode i⟩
  · rintro ⟨hsel, hfields⟩
    rw [← hfields, encode_withFieldsOf hsel]

/-- Decode and encode are inverse to each other between the words that decode and the well-formed commands. -/
theorem decode_eq_ok_iff_encode (w : Word) (i : Instr) : decode w = .ok i ↔ encode i = w ∧ i.wellFormed = true := by
  rw [decode_eq_ok_iff, encode_eq_iff, and_assoc]

/-! ## The obligations of the encoding -/

/-- Settles O2, from the equivalence of decoding and encoding. -/
theorem decodeOfEncodeIsTheCommand : Obligations.DecodeOfEncodeIsTheCommand :=
  fun i hwf => (decode_eq_ok_iff_encode (encode i) i).2 ⟨rfl, hwf⟩

/-- Settles O3, from the same equivalence. -/
theorem decodedWordIsItsEncoding : Obligations.DecodedWordIsItsEncoding :=
  fun w i h => (decode_eq_ok_iff_encode w i).1 h

/-- Settles O4: `decode_eq_ok_iff` for each command, and `matchRow_unique`. -/
theorem decodeFollowsMatchAndMask : Obligations.DecodeFollowsMatchAndMask := by
  intro w
  refine ⟨fun outlen keylen => ?_, fun nbytes => ?_, ?_, ?_, ?_, fun last => ?_, fun r hr r' hr' => matchRow_unique hr hr'⟩
  all_goals rw [decode_eq_ok_iff, selects_eq_true]
  · simp [Instr.matchRow, Instr.withFieldsOf, Instr.wellFormed, eq_comm, outlenField, keylenField]
  · simp [Instr.matchRow, Instr.withFieldsOf, Instr.wellFormed, eq_comm, nbytesField]
  · simp [Instr.matchRow, Instr.withFieldsOf, Instr.wellFormed]
  · simp [Instr.matchRow, Instr.withFieldsOf, Instr.wellFormed]
  · simp [Instr.matchRow, Instr.withFieldsOf, Instr.wellFormed]
  · simp [Instr.matchRow, Instr.withFieldsOf, Instr.wellFormed, eq_comm, lastField]

/-- Settles O1: each word is the encoding of its command. -/
theorem specWordsDecodeToTheirCommands : Obligations.SpecWordsDecodeToTheirCommands := by
  unfold Obligations.SpecWordsDecodeToTheirCommands
  simp only [decode_eq_ok_iff_encode]
  decide

end Sys2Proof
end

section
/-! SUPPORT. Command words at the port (30_encoding.md R90, R108): the word placed for the Engine, and POLL. -/

namespace Sys2Proof.Machine

/-! ## The placed command word -/

theorem tableWord_toNat (w : Word) : tableWord 32 w.toNat = w := by
  rw [tableWord, Nat.mod_eq_of_lt w.isLt, BitVec.ofNat_toNat, BitVec.setWidth_eq]

/-- A command word standing accepted is completed in the very next step (log entry 3). -/
theorem engineTurn_placeCommand (w : Word) (s : State) : (s.placeCommand w).engineTurn = true :=
  (engineTurn_eq_true _).2 ⟨rfl, rfl, .inl rfl⟩

/-- Completion of a word that decodes is the command's answer with BUSY cleared (60_exceptions.md R236). -/
theorem engineStep_of_decode {s t : State} {i : Instr} (hd : decode s.pend = .ok i) (h : exec i s = .next t) :
    engineStep s = .next t.complete := by
  rw [engineStep, State.runPending, hd]
  exact congrArg (mapNext State.complete) h

/-- Settles O11: the placed word gives the Engine its turn, and PEND is the word. -/
theorem placedWordIsTheNextCommand : Obligations.PlacedWordIsTheNextCommand := by
  intro s t w i hd h
  rw [State.withFetchWord, tableWord_toNat, step_of_engineTurn (engineTurn_placeCommand w s)]
  exact engineStep_of_decode hd h

/-! ## POLL -/

/-- Bit 0 of STATUS decides whether POLL goes on (30_encoding.md R108). -/
theorem pollOnce_eq (s : State) : s.pollOnce = { s with
    host := if s.busy then .poll :: s.host else s.host
    replies := s.replies ++ [s.statusWord] } := by
  have hbusy : s.statusWord.getLsbD 0 = s.busy := statusWord_getLsbD s 0
  rw [State.pollOnce, hbusy]
  split <;> rfl

/-- Settles O25: the step is one round of POLL (`pollOnce_eq`), and 0x04 is the offset of STATUS. -/
theorem pollRepeatsWhileBusy : Obligations.PollRepeatsWhileBusy := by
  intro s rest hserve
  rw [step_of_serves hserve, serve, pollOnce_eq]
  exact ⟨_, rfl⟩

end Sys2Proof.Machine
end

section
/-! SUPPORT. One mixing operation as an action on four words of the working vector (40_compression_engine.md R122 to R124): the words
it reads and writes, and the four new words as a function of the four old ones. -/

namespace Sys2Proof.Machine

/-! ## Maps that act within a set of words -/

/-- `f` writes only the words of `S`, and what it writes there depends on the words of `S` alone. -/
structure ActsWithin (S : List (Fin 16)) (f : Vector Word 16 → Vector Word 16) : Prop where
  keeps : ∀ v, ∀ i ∉ S, (f v)[i] = v[i]
  reads : ∀ v w, (∀ i ∈ S, v[i] = w[i]) → ∀ i ∈ S, (f v)[i] = (f w)[i]

section
variable {S S' : List (Fin 16)} {f g : Vector Word 16 → Vector Word 16}

/-- A statement `V[p] <- e` with `p` and the operands of `e` in `S`. -/
theorem ActsWithin.assign {p : Fin 16} {e : Vector Word 16 → Word} (hp : p ∈ S)
    (he : ∀ v w : Vector Word 16, (∀ i ∈ S, v[i] = w[i]) → e v = e w) : ActsWithin S fun v => v.set p (e v) where
  keeps v i hi := Vector.getElem_set_ne p.isLt i.isLt fun h => hi (Fin.ext h ▸ hp)
  reads v w h i hi := by
    simp only [Fin.getElem_fin, Vector.getElem_set]
    split
    · exact he v w h
    · exact h i hi

theorem ActsWithin.comp (hg : ActsWithin S g) (hf : ActsWithin S f) : ActsWithin S fun v => g (f v) where
  keeps v i hi := (hg.keeps _ i hi).trans (hf.keeps v i hi)
  reads v w h := hg.reads _ _ (hf.reads v w h)

/-- Outside `S'` the words of `S` see no difference, and no others change. -/
theorem ActsWithin.comm_getElem (hf : ActsWithin S f) (hg : ActsWithin S' g) (hd : ∀ i ∈ S, i ∉ S') (v : Vector Word 16)
    {i : Fin 16} (hi : i ∉ S') : (f (g v))[i] = (g (f v))[i] := by
  rw [hg.keeps (f v) i hi]
  by_cases h : i ∈ S
  · exact hf.reads _ _ (fun j hj => hg.keeps v j (hd j hj)) i h
  · rw [hf.keeps _ i h, hf.keeps v i h, hg.keeps v i hi]

theorem ActsWithin.comm (hf : ActsWithin S f) (hg : ActsWithin S' g) (hd : ∀ i ∈ S, i ∉ S') (v : Vector Word 16) :
    f (g v) = g (f v) := by
  refine Vector.ext fun k hk => ?_
  by_cases h : ⟨k, hk⟩ ∈ S'
  · exact (hg.comm_getElem hf (fun i hi' hi => hd i hi hi') v (i := ⟨k, hk⟩) fun hS => hd _ hS h).symm
  · exact hf.comm_getElem hg hd v (i := ⟨k, hk⟩) h

end

/-! ## The mixing operation on four words -/

/-- The first four statements of a mixing operation, and, with `y`, 8 and 7 for `x`, 16 and 12, the last four
(40_compression_engine.md R122). -/
def mixGHalf (a b c d : Fin 16) (x : Word) (n k : Nat) (v : Vector Word 16) : Vector Word 16 :=
  let v := v.set a (v[a] + v[b] + x)
  let v := v.set d (rotr32 (v[d] ^^^ v[a]) n)
  let v := v.set c (v[c] + v[d])
  v.set b (rotr32 (v[b] ^^^ v[c]) k)

theorem mixG_eq_halves (a b c d : Fin 16) (x y : Word) (v : Vector Word 16) :
    mixG a b c d x y v = mixGHalf a b c d y 8 7 (mixGHalf a b c d x 16 12 v) := rfl

theorem mixGHalf_actsWithin (a b c d : Fin 16) (x : Word) (n k : Nat) :
    ActsWithin [a, b, c, d] (mixGHalf a b c d x n k) := by
  have ha : a ∈ [a, b, c, d] := by simp
  have hb : b ∈ [a, b, c, d] := by simp
  have hc : c ∈ [a, b, c, d] := by simp
  have hd : d ∈ [a, b, c, d] := by simp
  have setA : ActsWithin [a, b, c, d] fun v => v.set a (v[a] + v[b] + x) :=
    .assign ha fun v w h => by rw [h a ha, h b hb]
  have setD : ActsWithin [a, b, c, d] fun v => v.set d (rotr32 (v[d] ^^^ v[a]) n) :=
    .assign hd fun v w h => by rw [h d hd, h a ha]
  have setC : ActsWithin [a, b, c, d] fun v => v.set c (v[c] + v[d]) :=
    .assign hc fun v w h => by rw [h c hc, h d hd]
  have setB : ActsWithin [a, b, c, d] fun v => v.set b (rotr32 (v[b] ^^^ v[c]) k) :=
    .assign hb fun v w h => by rw [h b hb, h c hc]
  exact setB.comp (setC.comp (setD.comp setA))

theorem mixG_actsWithin (a b c d : Fin 16) (x y : Word) : ActsWithin [a, b, c, d] (mixG a b c d x y) :=
  (mixGHalf_actsWithin a b c d y 8 7).comp (mixGHalf_actsWithin a b c d x 16 12)

/-- Settles O53: each operation acts within its own words. -/
theorem disjointMixingsCommute : Obligations.DisjointMixingsCommute :=
  fun a b c d a' b' c' d' x y x' y' v hd => (mixG_actsWithin a b c d x y).comm (mixG_actsWithin a' b' c' d' x' y') hd v

/-! ## The mixing operation as a function of four words -/

/-- Four things in the roles a, b, c, d of a mixing operation: places of the working vector, or the words there. -/
structure Quad (α : Type) where
  a : α
  b : α
  c : α
  d : α

/-- The places, as a list. -/
def Quad.places (q : Quad (Fin 16)) : List (Fin 16) := [q.a, q.b, q.c, q.d]

/-- The words of a working vector at four places. -/
def Quad.read (q : Quad (Fin 16)) (v : Vector Word 16) : Quad Word := ⟨v[q.a], v[q.b], v[q.c], v[q.d]⟩

/-- `mixG` at four places. -/
def Quad.mixAt (q : Quad (Fin 16)) (x y : Word) (v : Vector Word 16) : Vector Word 16 := mixG q.a q.b q.c q.d x y v

/-- What `mixGHalf` makes of four words. -/
def Quad.mixHalf (x : Word) (n k : Nat) (w : Quad Word) : Quad Word :=
  let a := w.a + w.b + x
  let d := rotr32 (w.d ^^^ a) n
  let c := w.c + d
  ⟨a, rotr32 (w.b ^^^ c) k, c, d⟩

/-- What a mixing operation makes of four words (40_compression_engine.md R122). -/
def Quad.mix (x y : Word) (w : Quad Word) : Quad Word := (w.mixHalf x 16 12).mixHalf y 8 7

section
variable {q q' : Quad (Fin 16)}

theorem read_mixGHalf (hq : q.places.Nodup) (x : Word) (n k : Nat) (v : Vector Word 16) :
    q.read (mixGHalf q.a q.b q.c q.d x n k v) = (q.read v).mixHalf x n k := by
  obtain ⟨a, b, c, d⟩ := q
  simp only [Quad.places, List.nodup_cons, List.mem_cons, List.not_mem_nil, or_false, not_or, Fin.ext_iff] at hq
  obtain ⟨⟨hab, hac, had⟩, ⟨hbc, hbd⟩, hcd, -⟩ := hq
  simp [Quad.read, Quad.mixHalf, mixGHalf, hab, hac, had, hbc, hbd, hcd, Ne.symm hab, Ne.symm hac,
    Ne.symm had, Ne.symm hbc, Ne.symm hbd, Ne.symm hcd]

theorem read_mixAt (hq : q.places.Nodup) (x y : Word) (v : Vector Word 16) :
    q.read (q.mixAt x y v) = (q.read v).mix x y := by
  rw [Quad.mixAt, mixG_eq_halves, read_mixGHalf hq, read_mixGHalf hq, Quad.mix]

theorem read_mixAt_of_disjoint (hd : ∀ p ∈ q.places, p ∉ q'.places) (x y : Word) (v : Vector Word 16) :
    q.read (q'.mixAt x y v) = q.read v := by
  have keeps {i : Fin 16} (hi : i ∈ q.places) : (q'.mixAt x y v)[i] = v[i] :=
    (mixG_actsWithin q'.a q'.b q'.c q'.d x y).keeps v i (hd i hi)
  simp only [Quad.read]
  rw [keeps, keeps, keeps, keeps] <;> simp [Quad.places]

end

end Sys2Proof.Machine
end

section
/-! SUPPORT. The four-lane form of F (40_compression_engine.md R131, R132). The proof's one idea: the columns of the rows, and of the
diagonalized rows, are the four disjoint sets of words that the column steps, and the diagonal steps, mix; lane i mixes column i. -/

namespace Sys2Proof.Machine

/-! ## Four mixing operations, one after another -/

/-- Four mixing operations in order, at the places `q 0` to `q 3`. -/
def mixFour (q : Fin 4 → Quad (Fin 16)) (x y : Row) (v : Vector Word 16) : Vector Word 16 :=
  (q 3).mixAt x[3] y[3] ((q 2).mixAt x[2] y[2] ((q 1).mixAt x[1] y[1] ((q 0).mixAt x[0] y[0] v)))

theorem read_mixFour {q : Fin 4 → Quad (Fin 16)} (hq : ∀ i, (q i).places.Nodup)
    (hd : ∀ i j, i ≠ j → ∀ p ∈ (q i).places, p ∉ (q j).places) (x y : Row) (v : Vector Word 16) (i : Fin 4) :
    (q i).read (mixFour q x y v) = ((q i).read v).mix x[i] y[i] := by
  have others {j : Fin 4} (hij : i ≠ j) (x y : Word) (v : Vector Word 16) : (q i).read ((q j).mixAt x y v) = (q i).read v :=
    read_mixAt_of_disjoint (hd i j hij) x y v
  unfold mixFour
  match i with
  | 0 => rw [others (by decide), others (by decide), others (by decide), read_mixAt (hq 0)]; rfl
  | 1 => rw [others (by decide), others (by decide), read_mixAt (hq 1), others (by decide)]; rfl
  | 2 => rw [others (by decide), read_mixAt (hq 2), others (by decide), others (by decide)]; rfl
  | 3 => rw [read_mixAt (hq 3), others (by decide), others (by decide), others (by decide)]; rfl

/-! ## Rows by columns -/

/-- Lane `i` of every row. -/
def Rows.column (r : Rows) (i : Fin 4) : Quad Word := ⟨r.r0[i], r.r1[i], r.r2[i], r.r3[i]⟩

theorem Rows.ext_column {r r' : Rows} (h : ∀ i, r.column i = r'.column i) : r = r' := by
  obtain ⟨r0, r1, r2, r3⟩ := r
  obtain ⟨r0', r1', r2', r3'⟩ := r'
  rw [Rows.mk.injEq]
  exact ⟨Vector.ext fun k hk => congrArg Quad.a (h ⟨k, hk⟩), Vector.ext fun k hk => congrArg Quad.b (h ⟨k, hk⟩),
    Vector.ext fun k hk => congrArg Quad.c (h ⟨k, hk⟩), Vector.ext fun k hk => congrArg Quad.d (h ⟨k, hk⟩)⟩

/-- Lane `i` of `laneG` is the mixing operation on lane `i`. -/
theorem laneG_column (x y : Row) (r : Rows) (i : Fin 4) : (laneG x y r).column i = (r.column i).mix x[i] y[i] := by
  simp [laneG, Rows.column, Quad.mix, Quad.mixHalf]

@[simp] theorem rotateLanes_getElem (k : Nat) (r : Row) (i : Nat) (h : i < 4) : (rotateLanes k r)[i] = r[(i + k) % 4] := by
  simp [rotateLanes]

theorem rotateLanes_rotateLanes {j k : Nat} (h : (j + k) % 4 = 0) (r : Row) : rotateLanes j (rotateLanes k r) = r := by
  refine Vector.ext fun i hi => ?_
  have hidx : ((i + j) % 4 + k) % 4 = i := by omega
  simp [hidx]

theorem undiagonalize_diagonalize (r : Rows) : r.diagonalize.undiagonalize = r := by
  simp [Rows.diagonalize, Rows.undiagonalize, rotateLanes_rotateLanes]

theorem toVector_ofVector (v : Vector Word 16) : (Rows.ofVector v).toVector = v := by
  refine Vector.ext fun i hi => ?_
  simp only [Rows.toVector, Vector.getElem_append (n := 4 + 4 + 4) (m := 4), Vector.getElem_append (n := 4 + 4) (m := 4),
    Vector.getElem_append (n := 4) (m := 4)]
  interval_cases i <;> rfl

/-! ## The two halves of a round -/

/-- The places of column step `i` (40_compression_engine.md R124). -/
def columnPlaces : Fin 4 → Quad (Fin 16)
  | 0 => ⟨0, 4, 8, 12⟩
  | 1 => ⟨1, 5, 9, 13⟩
  | 2 => ⟨2, 6, 10, 14⟩
  | 3 => ⟨3, 7, 11, 15⟩

/-- The places of diagonal step `i` (40_compression_engine.md R124). -/
def diagonalPlaces : Fin 4 → Quad (Fin 16)
  | 0 => ⟨0, 5, 10, 15⟩
  | 1 => ⟨1, 6, 11, 12⟩
  | 2 => ⟨2, 7, 8, 13⟩
  | 3 => ⟨3, 4, 9, 14⟩

theorem ofVector_column (v : Vector Word 16) (i : Fin 4) : (Rows.ofVector v).column i = (columnPlaces i).read v := by
  fin_cases i <;> rfl

theorem diagonalize_column (v : Vector Word 16) (i : Fin 4) :
    (Rows.ofVector v).diagonalize.column i = (diagonalPlaces i).read v := by
  fin_cases i <;> rfl

section
variable (m : Vector Word 16) (s : Vector (Fin 16) 16) (v : Vector Word 16)

theorem columnHalf_eq_mixFour : columnHalf m s v
    = mixFour columnPlaces #v[m[s[0]], m[s[2]], m[s[4]], m[s[6]]] #v[m[s[1]], m[s[3]], m[s[5]], m[s[7]]] v := rfl

theorem diagonalHalf_eq_mixFour : diagonalHalf m s v
    = mixFour diagonalPlaces #v[m[s[8]], m[s[10]], m[s[12]], m[s[14]]] #v[m[s[9]], m[s[11]], m[s[13]], m[s[15]]] v := rfl

end

theorem laneG_ofVector (x y : Row) (v : Vector Word 16) :
    laneG x y (Rows.ofVector v) = Rows.ofVector (mixFour columnPlaces x y v) :=
  Rows.ext_column fun i => by
    rw [laneG_column, ofVector_column, ofVector_column, read_mixFour (by decide) (by decide)]

theorem laneG_diagonalize (x y : Row) (v : Vector Word 16) :
    laneG x y (Rows.ofVector v).diagonalize = (Rows.ofVector (mixFour diagonalPlaces x y v)).diagonalize :=
  Rows.ext_column fun i => by
    rw [laneG_column, diagonalize_column, diagonalize_column, read_mixFour (by decide) (by decide)]

/-! ## Rounds -/

/-- A round on rows is the round on the working vector, as rows. -/
theorem laneRound_ofVector (m v : Vector Word 16) (r : Fin 10) :
    laneRound m (Rows.ofVector v) r = Rows.ofVector (mixRound m v r) := by
  rw [mixRound, columnHalf_eq_mixFour, diagonalHalf_eq_mixFour, laneRound, laneG_ofVector, laneG_diagonalize,
    undiagonalize_diagonalize]

/-- Settles O54: the rows of a working vector follow it through a round (`laneRound_ofVector`). -/
theorem fourLaneRoundIsTheRound : Obligations.FourLaneRoundIsTheRound := by
  intro m v r
  rw [laneRound_ofVector, toVector_ofVector]

/-- Settles O55: the rows follow the working vector through the ten rounds, by `List.foldl_hom`. -/
theorem fourLaneDatapathComputesF : Obligations.FourLaneDatapathComputesF := by
  intro h block t last
  rw [laneF, List.foldl_hom Rows.ofVector (g₁ := mixRound _) fun v r => laneRound_ofVector _ v r, toVector_ofVector]
  rfl

end Sys2Proof.Machine
end

section
/-! SUPPORT. The working vector before the first round, and COMPRESS (40_compression_engine.md R126 to R128, R133). -/

namespace Sys2Proof.Machine

section
variable (h : Vector Word 8) (t : Counter) (last : Bool)

theorem workingVector_getElem_of_ne {i : Nat} (hi : i < 16) (h12 : i ≠ 12) (h13 : i ≠ 13) (h14 : i ≠ 14) :
    (workingVector h t last)[i] = (h ++ iv)[i] := by
  cases last <;> simp [workingVector, Vector.getElem_set_ne, h12.symm, h13.symm, h14.symm]

theorem append_iv_getElem {i : Nat} (hi : i < 8) : (h ++ iv)[i + 8] = iv[i] := by
  rw [Vector.getElem_append_right (by omega) (by omega)]
  simp

theorem workingVector_12 : (workingVector h t last)[12] = iv[4] ^^^ lo32 t := by
  have hiv : (h ++ iv)[12] = iv[4] := append_iv_getElem h (by decide)
  cases last <;> simp [workingVector, hiv]

theorem workingVector_13 : (workingVector h t last)[13] = iv[5] ^^^ hi32 t := by
  have hiv : (h ++ iv)[13] = iv[5] := append_iv_getElem h (by decide)
  cases last <;> simp [workingVector, hiv]

theorem workingVector_14 : (workingVector h t last)[14] = if last then iv[6] ^^^ 0xFFFFFFFF else iv[6] := by
  have hiv : (h ++ iv)[14] = iv[6] := append_iv_getElem h (by decide)
  cases last
  · simp [workingVector, hiv]
  · simpa [workingVector, hiv] using (BitVec.xor_allOnes (x := iv[6])).symm

end

/-- Settles O52: every word but V[12] to V[14] is that of `h ++ iv`. -/
theorem counterAndFlagEnterTheirWordsOnly : Obligations.CounterAndFlagEnterTheirWordsOnly := by
  intro h t last
  refine ⟨fun i => ?_, fun i hi => ?_, workingVector_12 h t last, workingVector_13 h t last, workingVector_14 h t last⟩
  · rw [workingVector_getElem_of_ne h t last (by omega) (by omega) (by omega) (by omega), Vector.getElem_append_left i.isLt]
    rfl
  · rw [workingVector_getElem_of_ne h t last (by omega) (by omega) (by omega) (by omega), append_iv_getElem h i.isLt]
    rfl

/-- Settles O50: DOUT is SER of F of the operands, byte by byte (`ser8_getElem`). -/
theorem compressOutputsF : Obligations.CompressOutputsF := by
  intro s last
  refine ⟨ser8 (compressF s.kin s.dinb s.ctrin last), ?_, fun k => ?_⟩
  · exact (execCompress_eq last s).trans (by simp only [State.outputState, State.withErr])
  · exact ser8_getElem (compressF s.kin s.dinb s.ctrin last) k k.isLt

end Sys2Proof.Machine
end

section
/-! SUPPORT. What UPDATE leaves in the context, byte for byte (41_streaming_state_manager.md R160 to R165): with room in BUF its
bytes go behind the unconsumed ones (`absorbAll_of_fits`); on a full BUF the first byte compresses it and they start again at
BUF[0] (`absorbAll_of_full`); every other UPDATE is the one after the other (`absorbAll_append_of_crosses`). -/

namespace Sys2Proof.Machine

/-! ## Bytes placed in the buffer -/

/-- BUF with the bytes of a list written to it in order, from place `p` on. -/
def placeBytes (buf : Vector Byte 64) (p : Nat) (bytes : List Byte) : Vector Byte 64 :=
  Vector.ofFn fun i : Fin 64 => if p ≤ i.val ∧ i.val < p + bytes.length then bytes.getD (i.val - p) 0 else buf[i]

@[simp] theorem placeBytes_getElem (buf : Vector Byte 64) (p : Nat) (bytes : List Byte) (i : Nat) (h : i < 64) :
    (placeBytes buf p bytes)[i] = if p ≤ i ∧ i < p + bytes.length then bytes.getD (i - p) 0 else buf[i] := by
  simp [placeBytes]

@[simp] theorem placeBytes_nil (buf : Vector Byte 64) (p : Nat) : placeBytes buf p [] = buf := by
  ext i hi
  rw [placeBytes_getElem, if_neg (by simp)]

/-- Placing bytes one at a time, as ABSORB does. -/
theorem placeBytes_set (buf : Vector Byte 64) {p : Nat} (hp : p < 64) (b : Byte) (bytes : List Byte) :
    placeBytes (buf.set p b) (p + 1) bytes = placeBytes buf p (b :: bytes) := by
  ext i hi
  rw [placeBytes_getElem, placeBytes_getElem, Vector.getElem_set, List.length_cons]
  obtain hlt | rfl | hgt := Nat.lt_trichotomy i p
  · rw [if_neg (by omega), if_neg (by omega), if_neg (by omega)]
  · rw [if_neg (by omega), if_pos rfl, if_pos (by omega), Nat.sub_self, List.getD_cons_zero]
  · have hsub : i - p = i - (p + 1) + 1 := by omega
    have hrange : p + 1 ≤ i ∧ i < p + 1 + bytes.length ↔ p ≤ i ∧ i < p + (bytes.length + 1) := by omega
    rw [hsub, List.getD_cons_succ, if_neg (by omega : ¬ p = i), if_congr hrange rfl rfl]

theorem updateData_getD (s : State) {n j : Nat} (h : j < n) :
    (s.updateData n).getD j 0 = s.dinb.toList.getD j 0 := by
  simp [State.updateData, h]

theorem updateData_split (s : State) {k n : Nat} (h : k ≤ n) :
    s.updateData n = s.updateData k ++ (s.updateData n).drop k := by
  conv_lhs => rw [← List.take_append_drop k (s.updateData n)]
  rw [State.updateData, List.take_take, Nat.min_eq_left h]
  rfl

theorem updateData_succ (s : State) {k : Nat} (h : k < 64) :
    s.updateData (k + 1) = s.updateData k ++ [s.dinb.toList.getD k 0] := by
  have hlen : k < s.dinb.toList.length := by simpa using h
  rw [State.updateData, List.take_succ_eq_append_getElem hlen, List.getD_eq_getElem _ _ hlen]
  rfl

/-! ## ABSORB of a list -/

/-- The occupancy counts on while the bytes fit in BUF (41_streaming_state_manager.md R150). -/
theorem occ_add {c : Counter} {k : Nat} (hfits : occ c + k ≤ 64) (hroom : c.toNat + k < 2 ^ 64) :
    occ (c + BitVec.ofNat 64 k) = occ c + k := by
  induction k with
  | zero => simp
  | succ k ih =>
    have hk := ih (by omega) (by omega)
    have hctr : (c + BitVec.ofNat 64 k).toNat = c.toNat + k := by
      rw [BitVec.toNat_add_of_lt, BitVec.toNat_ofNat] <;> simp <;> omega
    rw [BitVec.ofNat_add, ← BitVec.add_assoc]
    refine (occ_add_one (by omega)).trans ?_
    rw [toNat_mod_of_not_full (by omega), hk, Nat.add_assoc]

theorem ctr_add_length_cons (c : Counter) (b : Byte) (bytes : List Byte) :
    c + 1 + BitVec.ofNat 64 bytes.length = c + BitVec.ofNat 64 (b :: bytes).length := by
  rw [List.length_cons, Nat.add_comm, BitVec.ofNat_add, ← BitVec.add_assoc]
  rfl

/-- Bytes that fit in the rest of BUF are only buffered (41_streaming_state_manager.md R163). -/
theorem absorbAll_of_fits (s : State) (bytes : List Byte) (hfits : occ s.ctr + bytes.length ≤ 64)
    (hroom : s.ctr.toNat + bytes.length < 2 ^ 64) :
    s.absorbAll bytes
      = { s with buf := placeBytes s.buf (occ s.ctr) bytes, ctr := s.ctr + BitVec.ofNat 64 bytes.length } := by
  induction bytes generalizing s with
  | nil => simp
  | cons b bytes ih =>
    rw [List.length_cons] at hfits hroom
    have hnot : occ s.ctr ≠ 64 := by omega
    have hmod := toNat_mod_of_not_full hnot
    have hctr := ctr_toNat_add_one (c := s.ctr) (by omega)
    have hocc : occ (s.ctr + 1) = occ s.ctr + 1 := by rw [occ_add_one (by omega), hmod]
    rw [absorbAll_cons, absorb_of_not_full s b hnot, ih _ (by rw [State.push_ctr]; omega) (by rw [State.push_ctr]; omega),
      State.push_ctr, State.push_buf, hocc, ctr_add_length_cons s.ctr b]
    simp only [hmod, placeBytes_set _ (show occ s.ctr < 64 by omega)]
    rfl

/-- On a full BUF the next byte compresses it, and the bytes are buffered from BUF[0] on (41_streaming_state_manager.md R164). -/
theorem absorbAll_of_full (s : State) {bytes : List Byte} (hne : bytes ≠ []) (hfull : occ s.ctr = 64)
    (hlen : bytes.length ≤ 64) (hroom : s.ctr.toNat + bytes.length < 2 ^ 64) :
    s.absorbAll bytes = { s with
      h := compressF s.h s.buf s.ctr false
      buf := placeBytes s.buf 0 bytes
      ctr := s.ctr + BitVec.ofNat 64 bytes.length } := by
  obtain ⟨b, rest, rfl⟩ := List.exists_cons_of_ne_nil hne
  rw [List.length_cons] at hlen hroom
  have hmod : s.ctr.toNat % 64 = 0 := ((occ_eq_64 s.ctr).mp hfull).2
  have hctr := ctr_toNat_add_one (c := s.ctr) (by omega)
  have hocc : occ (s.ctr + 1) = 0 + 1 := by rw [occ_add_one (by omega), hmod]
  rw [absorbAll_cons, absorb_of_full s b hfull,
    absorbAll_of_fits _ rest (by simp only [State.push_ctr]; omega) (by simp only [State.push_ctr]; omega),
    State.push_ctr, State.push_buf, hocc, ctr_add_length_cons s.ctr b]
  simp only [hmod, placeBytes_set _ (show 0 < 64 by decide)]
  rfl

/-- Bytes that do not fit fill BUF up, compress it once, and go on from BUF[0] (41_streaming_state_manager.md R164). -/
theorem absorbAll_append_of_crosses (s : State) {head tail : List Byte} (hhead : occ s.ctr + head.length = 64)
    (hne : tail ≠ []) (htail : tail.length ≤ 64) (hroom : s.ctr.toNat + (head ++ tail).length < 2 ^ 64) :
    s.absorbAll (head ++ tail) = { s with
      h := compressF s.h (placeBytes s.buf (occ s.ctr) head) (s.ctr + BitVec.ofNat 64 head.length) false
      buf := placeBytes (placeBytes s.buf (occ s.ctr) head) 0 tail
      ctr := s.ctr + BitVec.ofNat 64 (head ++ tail).length } := by
  rw [List.length_append] at hroom
  have hfilled := absorbAll_of_fits s head (by omega) (by omega)
  have hctr := absorbAll_ctr_toNat s head (by omega)
  have hfull : occ (s.absorbAll head).ctr = 64 := by rw [absorbAll_ctr, occ_add (by omega) (by omega), hhead]
  rw [absorbAll_append, absorbAll_of_full _ hne hfull htail (by omega), hfilled, List.length_append, BitVec.ofNat_add,
    ← BitVec.add_assoc]

/-! ## UPDATE -/

/-- UPDATE on a live context with room in the counter (41_streaming_state_manager.md R160). -/
theorem exec_update_of_live (s : State) {n : BitVec 7} (hctx : s.ctx = true) (hn : n.toNat ≤ 64)
    (hroom : s.ctr.toNat + n.toNat < 2 ^ 64 - 1) :
    exec (.update n) s = .next ((s.absorbAll (s.updateData n.toNat)).withErr .success) := by
  have hlen : (Chunk.bytes (s.din, n)).length = n.toNat := by simp [Chunk.bytes, hn]
  refine (exec_update_of_room (s.din, n) s hctx hn (by omega)).trans ?_
  change _ = Host.Outcome.next ((s.absorbAll (Chunk.bytes (s.din, n))).withErr .success)
  rw [absorbAll_frame]
  rfl

/-- Settles O45: the one UPDATE that absorbs the empty list. -/
theorem emptyUpdateIsNoOp : Obligations.EmptyUpdateIsNoOp := by
  intro s hctx hlive
  have := s.ctr.isLt
  rw [exec_update_of_live s hctx (by decide) (by simp; omega)]
  rfl

/-- Settles O43: UPDATE's bytes are absorbed as a list that fits (`absorbAll_of_fits`). -/
theorem updateWithinTheBlockOnlyBuffers : Obligations.UpdateWithinTheBlockOnlyBuffers := by
  intro s n hctx hroom hn hfits
  have hlen : (s.updateData n.toNat).length = n.toNat := by simp [hn]
  refine ⟨placeBytes s.buf (occ s.ctr) (s.updateData n.toNat), ?_, fun i => ?_⟩
  · rw [exec_update_of_live s hctx hn hroom, absorbAll_of_fits s _ (by omega) (by omega), hlen]
    rfl
  · rw [Fin.getElem_fin, placeBytes_getElem, hlen]
    split
    · exact updateData_getD s (by omega)
    · rfl

/-- Settles O44: UPDATE's bytes are absorbed as the ones that fill BUF and the rest (`absorbAll_append_of_crosses`). -/
theorem updateAcrossTheBlockCompressesOnce : Obligations.UpdateAcrossTheBlockCompressesOnce := by
  intro s n hctx hroom hn hcross
  have hle := occ_le s.ctr
  generalize hk : 64 - occ s.ctr = k
  have hlen : (s.updateData n.toNat).length = n.toNat := by simp [hn]
  have hhead : (s.updateData k).length = k := by rw [updateData_length]; omega
  have htail : ((s.updateData n.toNat).drop k).length = n.toNat - k := by rw [List.length_drop, hlen]
  have hsplit := updateData_split s (show k ≤ n.toNat by omega)
  have hend : s.ctr + BitVec.ofNat 64 k = BitVec.ofNat 64 (s.ctr.toNat + k) := by
    rw [BitVec.ofNat_add, BitVec.ofNat_toNat, BitVec.setWidth_eq]
  refine ⟨placeBytes (placeBytes s.buf (occ s.ctr) (s.updateData k)) 0 ((s.updateData n.toNat).drop k),
    placeBytes s.buf (occ s.ctr) (s.updateData k), ?_, fun i => ?_, fun i => ?_⟩
  · have habsorb := absorbAll_append_of_crosses s (head := s.updateData k) (tail := (s.updateData n.toNat).drop k)
      (by omega) (List.length_pos_iff.mp (by omega)) (by omega) (by rw [← hsplit]; omega)
    rw [← hsplit, hlen, hhead, hend] at habsorb
    rw [exec_update_of_live s hctx hn hroom, habsorb]
    rfl
  · rw [Fin.getElem_fin, placeBytes_getElem, hhead]
    split
    · rw [if_neg (by omega), updateData_getD s (by omega)]
    · rw [if_pos (by omega)]
      rfl
  · rw [Fin.getElem_fin, placeBytes_getElem, htail]
    refine if_ctx_congr (by omega) (fun _ => ?_) fun _ => rfl
    have hplace : k + (i.val - 0) = i.val + 64 - occ s.ctr := by omega
    rw [← updateData_getD s (n := n.toNat) (by omega), ← hplace]
    simp

/-- The byte ABSORB takes is the last occupied one of BUF (41_streaming_state_manager.md R163). -/
theorem absorb_last (s : State) (b : Byte) (h : s.ctr.toNat + 1 < 2 ^ 64) :
    1 ≤ occ (s.absorb b).ctr ∧ (s.absorb b).buf.toList.getD (occ (s.absorb b).ctr - 1) 0 = b := by
  have hmod : s.ctr.toNat % 64 < 64 := Nat.mod_lt _ (by decide)
  rw [absorb_ctr, occ_add_one h, Nat.add_sub_cancel]
  exact ⟨Nat.le_add_left _ _, by simp [State.absorb, hmod]⟩

/-- Settles O46: the last byte of UPDATE is the one its last ABSORB takes (`absorb_last`). -/
theorem lastByteStaysBuffered : Obligations.LastByteStaysBuffered := by
  intro s n hctx hroom h1 hn
  obtain ⟨k, hk⟩ : ∃ k, n.toNat = k + 1 := ⟨n.toNat - 1, by omega⟩
  have hlen : (s.updateData k).length = k := by rw [updateData_length]; omega
  have hctr := absorbAll_ctr_toNat s (s.updateData k) (by omega)
  refine ⟨_, exec_update_of_live s hctx hn hroom, ?_⟩
  rw [hk, updateData_succ s (by omega), absorbAll_append, Nat.add_sub_cancel]
  exact absorb_last _ _ (by omega)

end Sys2Proof.Machine
end

section
/-! SUPPORT. INIT, FINAL, FINAL_RESET and RESET on the context (41_streaming_state_manager.md R155 to R179), and streams fed to
contexts that are the same. -/

namespace Sys2Proof.Machine

/-! ## SEED -/

theorem ite_keylen_pos {α : Type} (keylen : BitVec 6) (a b : α) :
    (if 0 < keylen.toNat then a else b) = if keylen = 0 then b else a := by
  have h0 : keylen = 0 ↔ keylen.toNat = 0 := BitVec.toNat_inj.symm
  obtain h | h := Nat.eq_zero_or_pos keylen.toNat
  · rw [if_neg (by omega), if_pos (h0.2 h)]
  · rw [if_pos h, if_neg (mt h0.1 (by omega))]

/-- The OR of the parameter word is an XOR, its three fields being disjoint (42_key_expand_block.md R191). -/
theorem paramWord_eq_xor (outlen keylen : BitVec 6) :
    paramWord outlen keylen = 0x01010000 ^^^ outlen.setWidth 32 ^^^ keylen.setWidth 32 <<< 8 := by
  ext i hi
  interval_cases i <;> simp [paramWord]

/-- The parameter word enters word 0 (42_key_expand_block.md R190, R192). -/
theorem initialChaining_zero (outlen keylen : BitVec 6) :
    (initialChaining outlen keylen)[0]
      = 0x6A09E667 ^^^ 0x01010000 ^^^ BitVec.ofNat 32 outlen.toNat ^^^ BitVec.ofNat 32 (keylen.toNat * 256) := by
  have hkey : BitVec.ofNat 32 (keylen.toNat * 256) = keylen.setWidth 32 <<< 8 := by
    apply BitVec.eq_of_toNat_eq
    simp [Nat.shiftLeft_eq]
  rw [hkey, BitVec.ofNat_toNat, initialChaining, Vector.getElem_set_self, paramWord_eq_xor, ← BitVec.xor_assoc,
    ← BitVec.xor_assoc]
  rfl

theorem initialChaining_of_ne_zero (outlen keylen : BitVec 6) (i : Fin 8) (h : i.val ≠ 0) :
    (initialChaining outlen keylen)[i] = iv[i] := by
  simp [initialChaining, Vector.getElem_set_ne, h.symm]

/-- What SEED leaves, with the key's presence read off KEYLEN (42_key_expand_block.md R194). -/
theorem seed_eq (s : State) : s.seed = { s with
    h := initialChaining s.outlen s.keylen
    buf := keyBlock s.keylen s.skey
    ctr := if s.keylen = 0 then 0 else 64 } := by
  rw [State.seed, ite_keylen_pos]

/-- SEED reads OUTLEN, KEYLEN and SKEY alone (42_key_expand_block.md R194). -/
theorem sameContext_seed {s t : State} (ho : s.outlen = t.outlen) (hk : s.keylen = t.keylen) (hs : s.skey = t.skey)
    (hc : s.ctx = t.ctx) : SameContext s.seed t.seed := by
  simp [SameContext, ho, hk, hs, hc]

/-- No context counts more than its key block right after SEED (42_key_expand_block.md R194). -/
theorem seed_ctr_toNat_le (s : State) : s.seed.ctr.toNat ≤ 64 := by
  rw [State.seed_ctr]
  split <;> decide

/-! ## INIT, FINAL, FINAL_RESET and RESET -/

/-- RESET on a context, poisoned or not (41_streaming_state_manager.md R178). -/
theorem exec_reset_of_ctx (s : State) (hctx : s.ctx = true) : exec .reset s = .next (s.seed.withErr .success) := by
  rw [exec, execReset, if_neg (by simp [hctx])]
  rfl

/-- FINAL_RESET on a live context (41_streaming_state_manager.md R174). -/
theorem exec_finalReset_of_live (s : State) (hctx : s.ctx = true) (hlive : s.ctr.toNat ≠ 2 ^ 64 - 1) :
    exec .finalReset s = .next (s.finalize.seed.withErr .success) := by
  rw [exec, execFinalReset, if_neg (by simp [hctx]), if_neg (mt (ctr_eq_sentinel _).mp hlive)]
  rfl

/-- Settles O37: the checks of INIT in their order. -/
theorem initRejectsLengthsOutOfRange : Obligations.InitRejectsLengthsOutOfRange := by
  refine fun s outlen keylen => ⟨fun h => ?_, fun h1 h32 hk => ?_⟩
  · rw [exec, execInit, if_pos (by omega), raise_eq]
  · rw [exec, execInit, if_neg (by omega), if_pos hk, raise_eq]

/-- Settles O49: RESET is SEED. -/
theorem resetReseedsTheContext : Obligations.ResetReseedsTheContext := by
  intro s hctx
  refine ⟨initialChaining s.outlen s.keylen, keyBlock s.keylen s.skey, ?_, initialChaining_zero _ _,
    initialChaining_of_ne_zero _ _, fun i => ?_⟩
  · rw [exec_reset_of_ctx s hctx, seed_eq]
    rfl
  · rw [Fin.getElem_fin, keyBlock_getElem]
    by_cases hi : i.val < 32
    · simp [hi]
    · simp [hi]

/-- Settles O41: INIT saves the key and seeds. -/
theorem initBuildsTheContext : Obligations.InitBuildsTheContext := by
  intro s outlen keylen h1 h32 hk
  refine ⟨initialChaining outlen keylen, keyBlock keylen (s.keyOperand keylen.toNat), s.keyOperand keylen.toNat, ?_,
    initialChaining_zero _ _, initialChaining_of_ne_zero _ _, fun i => keyOperand_getElem s _ _ i.isLt, fun i => ?_⟩
  · rw [exec_init_of_legal s h1 h32 hk, seed_eq]
    rfl
  · rw [Fin.getElem_fin, keyBlock_getElem]
    by_cases hi : i.val < keylen.toNat
    · have h32 : i.val < 32 := by omega
      simp [hi, h32]
    · simp [hi]

/-- Settles O42: SEED of two new contexts with one key. -/
theorem initReplacesTheContextInFull : Obligations.InitReplacesTheContextInFull := by
  intro s s' outlen keylen h1 h32 hk hkin
  refine ⟨_, _, exec_init_of_legal s h1 h32 hk, exec_init_of_legal s' h1 h32 hk, ?_, fin_seed _⟩
  have hkey : s.keyOperand keylen.toNat = s'.keyOperand keylen.toNat := by
    simp [State.keyOperand, State.kinb, hkin]
  exact sameContext_seed rfl rfl hkey rfl

/-- Settles O47: FINALIZE is the padding (`padBlock_getElem`), F, and the truncation of its bytes (`truncateBytes_getElem`). -/
theorem finalWritesTheDigestAndPoisons : Obligations.FinalWritesTheDigestAndPoisons := by
  intro s hctx hlive
  refine ⟨padBlock s.buf (occ s.ctr), s.finalize.dout, exec_final_of_live s hctx hlive, fun i => padBlock_getElem _ _ _ i.isLt,
    fun k => ?_⟩
  refine (truncateBytes_getElem _ _ _ k.isLt).trans ?_
  rw [ser8_getElem _ _ k.isLt]
  rfl

/-- Settles O48: all that FINAL adds before RESET's SEED is ERR, which RESET writes again. -/
theorem finalResetIsFinalThenReset : Obligations.FinalResetIsFinalThenReset := by
  intro s hctx hlive
  exact ⟨_, _, exec_final_of_live s hctx hlive, exec_reset_of_ctx _ hctx, exec_finalReset_of_live s hctx hlive, rfl, rfl⟩

/-! ## Streams on the same context -/

/-- What a context has still to compute depends on the context alone. -/
theorem chainingAfter_congr {s t : State} (h : SameContext s t) (rest : List Byte) :
    s.chainingAfter rest = t.chainingAfter rest := by
  obtain ⟨hh, hbuf, hctr, -⟩ := h
  simp only [State.chainingAfter, State.pending, hh, hbuf, hctr]

/-- Streams of the same bytes, each into one of two contexts that are the same, have the same digest
(41_streaming_state_manager.md R166). -/
theorem feed_final_of_sameContext {s t : State} (h : SameContext t s) {a b : List Chunk} (hctx : s.ctx = true)
    (ha : ∀ c ∈ a, c.2.toNat ≤ 64) (hb : ∀ c ∈ b, c.2.toNat ≤ 64) (hbytes : streamBytes a = streamBytes b)
    (hroom : s.ctr.toNat + (streamBytes a).length < 2 ^ 64 - 1) :
    ∃ x x' y y', feed a s = .next x ∧ exec .final x = .next x' ∧ feed b t = .next y ∧ exec .final y = .next y'
      ∧ x'.dout = y'.dout ∧ x'.dlen = y'.dlen := by
  have hchaining := chainingAfter_congr h (streamBytes b)
  obtain ⟨-, -, hctr, houtlen, -, -, hctx'⟩ := h
  obtain ⟨x, x', hx, hx', hxlen, hxout⟩ := feed_final a s hctx ha hroom
  obtain ⟨y, y', hy, hy', hylen, hyout⟩ := feed_final b t (hctx'.trans hctx) hb (by rw [hctr, ← hbytes]; exact hroom)
  refine ⟨x, x', y, y', hx, hx', hy, hy', ?_, by rw [hxlen, hylen, houtlen]⟩
  rw [hxout, hyout, hchaining, hbytes, houtlen]

/-- Settles O56: both sequences absorb the same list (`feed_eq_absorbAll`). -/
theorem streamSplitDoesNotMatter : Obligations.StreamSplitDoesNotMatter := by
  intro s a b hctx ha hb hbytes hroom
  obtain ⟨din, err, hfeeda⟩ := feed_eq_absorbAll a s hctx ha hroom
  obtain ⟨din', err', hfeedb⟩ := feed_eq_absorbAll b s hctx hb (hbytes ▸ hroom)
  obtain ⟨t, t', u, u', ht, ht', hu, hu', hdigest⟩ :=
    feed_final_of_sameContext ⟨rfl, rfl, rfl, rfl, rfl, rfl, rfl⟩ hctx ha hb hbytes hroom
  refine ⟨t, u, t', u', ht, hu, ?_, ht', hu', hdigest⟩
  cases ht.symm.trans hfeeda
  cases hu.symm.trans hfeedb
  rw [hbytes]
  exact ⟨rfl, rfl, rfl, rfl, rfl, rfl, rfl⟩

/-- A stream leaves a live context and none of what SEED reads changed (41_streaming_state_manager.md R160). -/
theorem feed_keeps_config (chunks : List Chunk) (s : State) (hctx : s.ctx = true) (hlegal : ∀ c ∈ chunks, c.2.toNat ≤ 64)
    (hroom : s.ctr.toNat + (streamBytes chunks).length < 2 ^ 64 - 1) :
    ∃ live, feed chunks s = .next live ∧ live.ctx = true ∧ live.ctr.toNat ≠ 2 ^ 64 - 1
      ∧ live.outlen = s.outlen ∧ live.keylen = s.keylen ∧ live.skey = s.skey := by
  obtain ⟨din, err, hfeed⟩ := feed_eq_absorbAll chunks s hctx hlegal hroom
  have hctr := absorbAll_ctr_toNat s (streamBytes chunks) (by omega)
  refine ⟨_, hfeed, (absorbAll_ctx s _).trans hctx, by simp only [hctr]; omega, absorbAll_outlen s _, ?_⟩
  rw [absorbAll_frame]
  exact ⟨rfl, rfl⟩

/-- Settles O57: SEED reads nothing that a stream or FINALIZE writes (`sameContext_seed`), so both routes end in the
fresh context. -/
theorem resetReturnsToTheFreshContext : Obligations.ResetReturnsToTheFreshContext := by
  intro s outlen keylen absorbed input h1 h32 hk ha hi hroom hroom'
  have hctr : ((s.newContext outlen keylen).seed.withErr .success).ctr.toNat ≤ 64 := seed_ctr_toNat_le _
  obtain ⟨live, hfeed, hctx, hlive, houtlen, hkeylen, hskey⟩ :=
    feed_keeps_config absorbed ((s.newContext outlen keylen).seed.withErr .success) rfl ha (by omega)
  have hsame : SameContext (live.finalize.seed.withErr .success) ((s.newContext outlen keylen).seed.withErr .success) :=
    sameContext_seed houtlen hkeylen hskey hctx
  obtain ⟨x, x', y, y', hx, hx', hy, hy', hdout, hdlen⟩ := feed_final_of_sameContext hsame rfl hi hi rfl (by omega)
  exact ⟨_, live, _, _, _, exec_init_of_legal s h1 h32 hk, hfeed, exec_finalReset_of_live live hctx hlive,
    exec_final_of_live live hctx hlive, exec_reset_of_ctx _ hctx, hsame, hsame,
    x, y, y, x', y', y', hx, hx', hy, hy', hdout, hdlen, hy, hy', hdout, hdlen⟩

end Sys2Proof.Machine
end

section
/-! SUPPORT. The key expand block: the parameter word's layout (42_key_expand_block.md R190, R191), who writes the saved key and
the lengths, and that a context command does not read KIN (R198). -/

namespace Sys2Proof.Machine

/-! ## The parameter word -/

/-- The parameter word is OUTLEN and KEYLEN, each a byte, at their places below the two constant bytes (42_key_expand_block.md R190). -/
theorem paramWord_eq_placeField (outlen keylen : BitVec 6) :
    paramWord outlen keylen = 0x01010000 ||| placeField 8 (keylen.setWidth 8) ||| placeField 0 (outlen.setWidth 8) := by
  rw [paramWord, placeField, placeField, BitVec.shiftLeft_zero, BitVec.setWidth_setWidth (by decide),
    BitVec.setWidth_setWidth (by decide)]
  rfl

/-- A slice of the parameter word is made of the slices of its three parts. -/
theorem paramWord_extractLsb' (outlen keylen : BitVec 6) (start : Nat) :
    (paramWord outlen keylen).extractLsb' start 8 = (0x01010000 : Word).extractLsb' start 8
      ||| (placeField 8 (keylen.setWidth 8)).extractLsb' start 8 ||| (placeField 0 (outlen.setWidth 8)).extractLsb' start 8 := by
  rw [paramWord_eq_placeField, BitVec.extractLsb'_or, BitVec.extractLsb'_or]

/-- Settles O51: in each byte of the word at most one of its parts is not 0. -/
theorem parameterWordLayout : Obligations.ParameterWordLayout := by
  refine fun outlen keylen => ⟨?_, ?_, ?_, ?_, paramWord_eq_xor outlen keylen⟩
  · rw [paramWord_extractLsb', extractLsb'_placeField_of_disjoint _ (by decide), extractLsb'_placeField _ (by decide)]
    exact BitVec.zero_or
  · rw [paramWord_extractLsb', extractLsb'_placeField _ (by decide), extractLsb'_placeField_of_disjoint _ (by decide)]
    exact BitVec.or_zero.trans BitVec.zero_or
  all_goals
    rw [paramWord_extractLsb', extractLsb'_placeField_of_disjoint _ (by decide),
      extractLsb'_placeField_of_disjoint _ (by decide)]
    rfl

/-! ## Who writes the saved key and the lengths -/

/-- A command that does not succeed as an INIT leaves SKEY and the lengths (42_key_expand_block.md R198). -/
theorem exec_key {i : Instr} {s t : State} (h : exec i s = .next t) :
    (t.skey = s.skey ∧ t.keylen = s.keylen ∧ t.outlen = s.outlen)
      ∨ (t.err = .success ∧ ∃ outlen keylen, i = .init outlen keylen) := by
  obtain ⟨e, rfl⟩ | ⟨ol, kl, rfl, -, -, -, rfl⟩ | ⟨n, -, -, -, -, rfl⟩ | ⟨-, -, rfl⟩ | ⟨-, -, -, rfl⟩ | ⟨-, -, rfl⟩ | ⟨_, -, rfl⟩ :=
    exec_cases h
  · exact .inl ⟨rfl, rfl, rfl⟩
  · exact .inr ⟨rfl, ol, kl, rfl⟩
  · rw [absorbAll_frame]
    exact .inl ⟨rfl, rfl, rfl⟩
  · exact .inl ⟨rfl, rfl, rfl⟩
  · exact .inl ⟨rfl, rfl, rfl⟩
  · exact .inl ⟨rfl, rfl, rfl⟩
  · simp

/-- A step leaves SKEY and the lengths, completes a successful INIT, or is made under hardware reset (42_key_expand_block.md R198). -/
theorem step_key {s t : State} (h : step s = .next t) :
    (t.skey = s.skey ∧ t.keylen = s.keylen ∧ t.outlen = s.outlen)
      ∨ (t.err = .success ∧ ∃ outlen keylen, s.Completes (.init outlen keylen)) ∨ s.UnderReset := by
  obtain ⟨hr, -⟩ | ⟨-, u, rfl, ⟨i, hi, hu⟩ | rfl⟩ | ⟨-, hkeep⟩ := step_completes_or_sameButPort h
  · exact .inr (.inr hr)
  · obtain hsame | ⟨herr, ol, kl, rfl⟩ := exec_key hu
    · exact .inl hsame
    · exact .inr (.inl ⟨herr, ol, kl, hi⟩)
  · exact .inl ⟨rfl, rfl, rfl⟩
  · obtain ⟨-, -, -, houtlen, hkeylen, hskey, -⟩ := hkeep.context
    exact .inl ⟨hskey, hkeylen, houtlen⟩

/-! ## KIN after INIT -/

/-- A state with other contents of KIN. -/
def State.withKin (kin : Vector Word 8) (s : State) : State := { s with kin := kin }

theorem absorbAll_withKin (kin : Vector Word 8) (s : State) (bytes : List Byte) :
    (s.withKin kin).absorbAll bytes = (s.absorbAll bytes).withKin kin := by
  refine (absorbAll_withStaging s s.din kin s.err bytes).trans ?_
  rw [absorbAll_frame]
  rfl

/-- UPDATE, FINAL, FINAL_RESET and RESET neither read nor write KIN (41_streaming_state_manager.md R160, R168, R174, R178): no check
of theirs reads it, and what they do to the context commutes with a change of it. -/
theorem exec_withKin {i : Instr} (hi : (∃ n, i = .update n) ∨ i = .final ∨ i = .finalReset ∨ i = .reset)
    (kin : Vector Word 8) (s : State) : exec i (s.withKin kin) = mapNext (State.withKin kin) (exec i s) := by
  obtain ⟨n, rfl⟩ | rfl | rfl | rfl := hi
  · simp only [exec, execUpdate, apply_ite (mapNext (State.withKin kin)), absorbAll_withKin]
    rfl
  · simp only [exec, execFinal, apply_ite (mapNext (State.withKin kin))]
    rfl
  · simp only [exec, execFinalReset, apply_ite (mapNext (State.withKin kin))]
    rfl
  · simp only [exec, execReset, apply_ite (mapNext (State.withKin kin))]
    rfl

/-- Settles O32: `step_key` says who writes them, and `exec_withKin` that KIN has no effect afterwards. -/
theorem keyWrittenOnlyByInit : Obligations.KeyWrittenOnlyByInit := by
  refine ⟨fun s t h hne => ?_, fun s t i kin hi h => ?_⟩
  · obtain ⟨hskey, hkeylen, houtlen⟩ | hwritten := step_key h
    · simp [hskey, hkeylen, houtlen] at hne
    · exact hwritten
  · exact (exec_withKin hi kin s).trans (congrArg (mapNext (State.withKin kin)) h)

end Sys2Proof.Machine
end

section
/-! SUPPORT. The output truncator: who writes DOUT and DLEN (43_output_truncator.md R210). -/

namespace Sys2Proof.Machine

/-- A command that fails, UPDATE and RESET leave the output; the four others write it when they succeed (43_output_truncator.md R210). -/
theorem exec_output {i : Instr} {s t : State} (h : exec i s = .next t) :
    (t.dout = s.dout ∧ t.dlen = s.dlen)
      ∨ (t.err = .success
          ∧ ((∃ outlen keylen, i = .init outlen keylen) ∨ i = .final ∨ i = .finalReset ∨ ∃ last, i = .compress last)) := by
  obtain ⟨e, rfl⟩ | ⟨ol, kl, rfl, -, -, -, rfl⟩ | ⟨n, -, -, -, -, rfl⟩ | ⟨rfl, -, rfl⟩ | ⟨rfl, -, -, rfl⟩ | ⟨-, -, rfl⟩
    | ⟨last, rfl, rfl⟩ := exec_cases h
  · exact .inl ⟨rfl, rfl⟩
  · exact .inr ⟨rfl, .inl ⟨ol, kl, rfl⟩⟩
  · rw [absorbAll_frame]
    exact .inl ⟨rfl, rfl⟩
  · exact .inr ⟨rfl, .inr (.inl rfl)⟩
  · exact .inr ⟨rfl, .inr (.inr (.inl rfl))⟩
  · exact .inl ⟨rfl, rfl⟩
  · exact .inr ⟨rfl, .inr (.inr (.inr ⟨last, rfl⟩))⟩

/-- A step leaves the output, completes a writer of it without error, or is made under hardware reset (43_output_truncator.md R210). -/
theorem step_output {s t : State} (h : step s = .next t) :
    (t.dout = s.dout ∧ t.dlen = s.dlen)
      ∨ (t.err = .success
          ∧ ((∃ outlen keylen, s.Completes (.init outlen keylen)) ∨ s.Completes .final ∨ s.Completes .finalReset
            ∨ ∃ last, s.Completes (.compress last)))
      ∨ s.UnderReset := by
  obtain ⟨hr, -⟩ | ⟨-, u, rfl, ⟨i, hi, hu⟩ | rfl⟩ | ⟨-, hkeep⟩ := step_completes_or_sameButPort h
  · exact .inr (.inr hr)
  · obtain hsame | ⟨herr, ⟨ol, kl, rfl⟩ | rfl | rfl | ⟨last, rfl⟩⟩ := exec_output hu
    · exact .inl hsame
    · exact .inr (.inl ⟨herr, .inl ⟨ol, kl, hi⟩⟩)
    · exact .inr (.inl ⟨herr, .inr (.inl hi)⟩)
    · exact .inr (.inl ⟨herr, .inr (.inr (.inl hi))⟩)
    · exact .inr (.inl ⟨herr, .inr (.inr (.inr ⟨last, hi⟩))⟩)
  · exact .inl ⟨rfl, rfl⟩
  · exact .inl ⟨hkeep.dout, hkeep.dlen⟩

/-- Settles O31: a step that does not leave the output is one of the others of `step_output`. -/
theorem outputPersists : Obligations.OutputPersists := by
  intro s t h hne
  obtain ⟨hdout, hdlen⟩ | hwritten := step_output h
  · exact absurd hne (by simp [hdout, hdlen])
  · exact hwritten

end Sys2Proof.Machine
end

section
/-! SUPPORT. The errors of the commands (60_exceptions.md R221 to R227): which a command can complete with, when each is raised, and
that a raised error changes nothing else. -/

namespace Sys2Proof.Machine

/-! ## When an error is raised -/

section
variable {s : State}

/-- A command that needs a context raises NoContext without one (60_exceptions.md R223). -/
theorem exec_of_no_context {i : Instr} (hctx : s.ctx = false) (hwf : i.wellFormed = true)
    (hi : (∃ n, i = .update n) ∨ i = .final ∨ i = .finalReset ∨ i = .reset) : exec i s = s.raise .noContext := by
  obtain ⟨n, rfl⟩ | rfl | rfl | rfl := hi
  · have hn : ¬ 64 < n.toNat := Nat.not_lt.2 (of_decide_eq_true hwf)
    rw [exec, execUpdate, if_neg hn, if_pos hctx]
  · rw [exec, execFinal, if_pos hctx]
  · rw [exec, execFinalReset, if_pos hctx]
  · rw [exec, execReset, if_pos hctx]

/-- UPDATE, FINAL and FINAL_RESET raise UseAfterFinalize on a poisoned context (60_exceptions.md R224). -/
theorem exec_of_poisoned {i : Instr} (hctx : s.ctx = true) (hctr : s.ctr = sentinel) (hwf : i.wellFormed = true)
    (hi : (∃ n, i = .update n) ∨ i = .final ∨ i = .finalReset) : exec i s = s.raise .useAfterFinalize := by
  have hctx : ¬ s.ctx = false := by simp [hctx]
  obtain ⟨n, rfl⟩ | rfl | rfl := hi
  · have hn : ¬ 64 < n.toNat := Nat.not_lt.2 (of_decide_eq_true hwf)
    rw [exec, execUpdate, if_neg hn, if_neg hctx, if_pos hctr]
  · rw [exec, execFinal, if_neg hctx, if_pos hctr]
  · rw [exec, execFinalReset, if_neg hctx, if_pos hctr]

/-- UPDATE raises CounterOverflow when the exact sum reaches the sentinel (60_exceptions.md R225). -/
theorem exec_update_of_overflow {n : BitVec 7} (hctx : s.ctx = true) (hctr : s.ctr ≠ sentinel) (hn : n.toNat ≤ 64)
    (hsum : 2 ^ 64 - 1 ≤ s.ctr.toNat + n.toNat) : exec (.update n) s = s.raise .counterOverflow := by
  rw [exec, execUpdate, if_neg (Nat.not_lt.2 hn), if_neg (by simp [hctx]), if_neg hctr,
    counterOverflows, if_pos (decide_eq_true hsum)]

/-- UPDATE raises CounterOverflow only then. -/
theorem overflow_of_exec_update {n : BitVec 7} {t : State} (h : exec (.update n) s = .next t)
    (herr : t.err = .counterOverflow) : n.toNat ≤ 64 ∧ 2 ^ 64 - 1 ≤ s.ctr.toNat + n.toNat := by
  obtain ⟨-, rfl⟩ | ⟨-, rfl⟩ | ⟨-, -, rfl⟩ | ⟨-, -, hn, hsum, -⟩ | ⟨-, -, -, rfl⟩ := execUpdate_cases h
  · cases herr
  · cases herr
  · cases herr
  · exact ⟨hn, hsum⟩
  · cases herr

end

/-! ## What a command can complete with -/

/-- The values of ERR that the table of the spec allows a command word of this opcode (60_exceptions.md R221). -/
def verdicts (op : BitVec 4) : List ErrCode :=
  if op = 1 then [.success, .invalidOutputLength, .invalidKeyLength, .invalidCommand]
  else if op = 2 then [.success, .useAfterFinalize, .noContext, .invalidCommand, .counterOverflow]
  else if op = 3 ∨ op = 4 then [.success, .useAfterFinalize, .noContext, .invalidCommand]
  else if op = 5 then [.success, .noContext, .invalidCommand]
  else if op = 6 then [.success, .invalidCommand]
  else [.invalidCommand]

/-- Any word can be Invalid (60_exceptions.md R222). -/
theorem invalidCommand_mem_verdicts (op : BitVec 4) : ErrCode.invalidCommand ∈ verdicts op := by
  revert op
  decide

theorem verdicts_of_reserved {op : BitVec 4} (h : op = 0 ∨ 7 ≤ op.toNat) : verdicts op = [.invalidCommand] := by
  revert op
  decide

/-- A command leaves in ERR one of the values of its row (60_exceptions.md R221). -/
theorem exec_err_mem_verdicts {i : Instr} {s t : State} (h : exec i s = .next t) : t.err ∈ verdicts i.opcode := by
  cases i with
  | init outlen keylen =>
    obtain ⟨-, rfl⟩ | ⟨-, -, -, rfl⟩ | ⟨-, -, -, rfl⟩ := execInit_cases h
    all_goals simp [verdicts, Instr.opcode]
  | update n =>
    obtain ⟨-, rfl⟩ | ⟨-, rfl⟩ | ⟨-, -, rfl⟩ | ⟨-, -, -, -, rfl⟩ | ⟨-, -, -, rfl⟩ := execUpdate_cases h
    all_goals simp [verdicts, Instr.opcode]
  | final =>
    obtain ⟨-, rfl⟩ | ⟨-, -, rfl⟩ | ⟨-, -, rfl⟩ := execFinal_cases h
    all_goals simp [verdicts, Instr.opcode]
  | finalReset =>
    obtain ⟨-, rfl⟩ | ⟨-, -, rfl⟩ | ⟨-, -, rfl⟩ := execFinalReset_cases h
    all_goals simp [verdicts, Instr.opcode]
  | reset =>
    obtain ⟨-, rfl⟩ | ⟨-, rfl⟩ := execReset_cases h
    all_goals simp [verdicts, Instr.opcode]
  | compress last =>
    cases h
    simp [verdicts, Instr.opcode]

theorem opField_of_decode {w : Word} {i : Instr} (h : decode w = .ok i) : opField w = i.opcode := by
  obtain ⟨hsel, -⟩ := (decode_eq_ok_iff w i).1 h
  exact ((selects_matchRow_iff i w).1 hsel).1

/-- A completion leaves in ERR one of the values of the row of PEND's opcode, Invalid words included (60_exceptions.md R221, R222). -/
theorem engineStep_err_mem_verdicts {s t : State} (h : engineStep s = .next t) : t.err ∈ verdicts (opField s.pend) := by
  obtain ⟨i, u, hd, hu, rfl⟩ | ⟨r, -, rfl⟩ := engineStep_cases h
  · rw [opField_of_decode hd, State.complete_err]
    exact exec_err_mem_verdicts hu
  · exact invalidCommand_mem_verdicts _

/-- A command that raises an error writes ERR alone (60_exceptions.md R226). -/
theorem exec_of_err {i : Instr} {s t : State} (h : exec i s = .next t) (herr : t.err ≠ .success) : t = s.withErr t.err := by
  obtain ⟨e, rfl⟩ | ⟨_, _, -, -, -, -, rfl⟩ | ⟨_, -, -, -, -, rfl⟩ | ⟨-, -, rfl⟩ | ⟨-, -, -, rfl⟩ | ⟨-, -, rfl⟩ | ⟨_, -, rfl⟩ :=
    exec_cases h
  · rfl
  all_goals exact absurd rfl herr

/-! ## Invalid words -/

/-- A slice of a word that a mask covers is 0 when the masked word is. -/
theorem extractLsb'_of_and_eq_zero {w mask : Word} {start len : Nat} (h : w &&& mask = 0)
    (hmask : mask.extractLsb' start len = BitVec.allOnes len) : w.extractLsb' start len = 0 := by
  calc w.extractLsb' start len
    _ = (w &&& mask).extractLsb' start len := by rw [BitVec.extractLsb'_and, hmask, BitVec.and_allOnes]
    _ = 0 := by simp [h]

/-- The Invalid words, field by field (60_exceptions.md R222, 30_encoding.md R91 to R94, R104). -/
def ReservedWord (w : Word) : Prop :=
  opField w = 0 ∨ 7 ≤ (opField w).toNat
    ∨ w.extractLsb' 4 4 ≠ 0
    ∨ (opField w = 1 ∧ (w.extractLsb' 14 2 ≠ 0 ∨ w.extractLsb' 22 10 ≠ 0))
    ∨ (opField w = 2 ∧ (w.extractLsb' 15 17 ≠ 0 ∨ 64 < (nbytesField w).toNat))
    ∨ ((opField w = 3 ∨ opField w = 4 ∨ opField w = 5) ∧ w.extractLsb' 8 24 ≠ 0)
    ∨ (opField w = 6 ∧ w.extractLsb' 9 23 ≠ 0)

/-- A word that decodes is in its format: each reserved slice lies in the mask of its command. -/
theorem not_reservedWord_of_decode {w : Word} {i : Instr} (h : decode w = .ok i) : ¬ ReservedWord w := by
  obtain ⟨hsel, hfields, hwf⟩ := (decode_eq_ok_iff w i).1 h
  obtain ⟨hop, hres⟩ := (selects_matchRow_iff i w).1 hsel
  have hzero (start len : Nat) (hmask : i.reservedMask.extractLsb' start len = BitVec.allOnes len) :
      w.extractLsb' start len = 0 := extractLsb'_of_and_eq_zero hres hmask
  cases i with
  | init outlen keylen =>
    rw [Instr.reservedMask] at hzero
    simp [ReservedWord, hop, Instr.opcode, hzero 4 4 (by decide), hzero 14 2 (by decide), hzero 22 10 (by decide)]
  | update n =>
    obtain rfl : nbytesField w = n := Instr.update.inj hfields
    have hn : (nbytesField w).toNat ≤ 64 := of_decide_eq_true hwf
    rw [Instr.reservedMask] at hzero
    simp [ReservedWord, hop, Instr.opcode, hzero 4 4 (by decide), hzero 15 17 (by decide), hn]
  | final | finalReset | reset =>
    rw [Instr.reservedMask] at hzero
    simp [ReservedWord, hop, Instr.opcode, hzero 4 4 (by decide), hzero 8 24 (by decide)]
  | compress last =>
    rw [Instr.reservedMask] at hzero
    simp [ReservedWord, hop, Instr.opcode, hzero 4 4 (by decide), hzero 9 23 (by decide)]

/-- Completion of a word that does not decode is InvalidCommand with BUSY cleared (60_exceptions.md R222, R236). -/
theorem engineStep_of_not_decode {s : State} (h : ∀ i, decode s.pend ≠ .ok i) :
    engineStep s = .next (s.withErr .invalidCommand).complete := by
  rw [engineStep, State.runPending]
  cases hd : decode s.pend with
  | ok i => exact absurd hd (h i)
  | error r => rfl

/-! ## The obligations of the errors -/

/-- Settles O5: no command decodes from such a word (`not_reservedWord_of_decode`). -/
theorem reservedWordCompletesWithInvalidCommand : Obligations.ReservedWordCompletesWithInvalidCommand := by
  intro s he hreserved
  rw [step_of_engineTurn he]
  exact engineStep_of_not_decode fun i hd => not_reservedWord_of_decode hd hreserved

/-- Settles O35: an error of a command writes ERR alone (`exec_of_err`), an Invalid word too, and completion clears BUSY. -/
theorem errorChangesNothingElse : Obligations.ErrorChangesNothingElse := by
  intro s t he h herr
  rw [step_of_engineTurn he] at h
  obtain ⟨i, u, -, hu, rfl⟩ | ⟨r, -, rfl⟩ := engineStep_cases h
  · exact congrArg State.complete (exec_of_err hu herr)
  · rfl

/-- Settles O36: each clause is a row of `verdicts`. -/
theorem errorsEachCommandCanRaise : Obligations.ErrorsEachCommandCanRaise := by
  intro s t he h
  rw [step_of_engineTurn he] at h
  have hmem {op : BitVec 4} (hop : opField s.pend = op) : t.err ∈ verdicts op := hop ▸ engineStep_err_mem_verdicts h
  refine ⟨fun hop => ?_, fun hop => ?_, fun hop => ?_, fun hop => ?_, fun hop => ?_, fun hop => ?_⟩
  · simpa [verdicts] using hmem hop
  · simpa [verdicts] using hmem hop
  · obtain hop | hop := hop
    · simpa [verdicts] using hmem hop
    · simpa [verdicts] using hmem hop
  · simpa [verdicts] using hmem hop
  · simpa [verdicts] using hmem hop
  · have hinvalid : verdicts (opField s.pend) = [.invalidCommand] := verdicts_of_reserved hop
    exact List.mem_singleton.1 (hinvalid ▸ hmem rfl)

/-- Settles O38: the first check on the context of each of the four. -/
theorem noContextIsReported : Obligations.NoContextIsReported :=
  fun _ _ hctx hwf hi => exec_of_no_context hctx hwf hi

/-- Settles O39: the second check of the three commands, and the rows of the three others in `verdicts`. -/
theorem useAfterFinalizeIsReported : Obligations.UseAfterFinalizeIsReported := by
  refine ⟨fun s i hctx hctr hwf hi => exec_of_poisoned hctx ((ctr_eq_sentinel _).2 hctr) hwf hi, fun s t i hi h herr => ?_⟩
  have hmem : ErrCode.useAfterFinalize ∈ verdicts i.opcode := herr ▸ exec_err_mem_verdicts h
  obtain rfl | ⟨_, _, rfl⟩ | ⟨_, rfl⟩ := hi
  all_goals simp [verdicts, Instr.opcode] at hmem

/-- Settles O40: the sum decides (`exec_update_of_overflow`, `overflow_of_exec_update`), of which NBYTES is at most 64. -/
theorem counterOverflowIsReported : Obligations.CounterOverflowIsReported := by
  refine fun s n hctx hctr hn => ⟨exec_update_of_overflow hctx (mt (ctr_eq_sentinel _).1 hctr) hn, fun t h herr => ?_⟩
  obtain ⟨-, hsum⟩ := overflow_of_exec_update h herr
  omega

end Sys2Proof.Machine
end

section
/-! SUPPORT. Acceptance and completion of a command (60_exceptions.md R229, R235 to R237, R244). -/

namespace Sys2Proof.Machine

/-! ## The Engine's turn and idling -/

/-- Settles O10: the hypotheses are the Engine's turn, and its step the decoded command's completion. -/
theorem stepRunsTheDecodedCommand : Obligations.StepRunsTheDecodedCommand := by
  intro s t i hr hb hturn hd h
  rw [step_of_engineTurn ((engineTurn_eq_true s).2 ⟨hr, hb, hturn⟩)]
  exact engineStep_of_decode hd h

/-- Settles O14: the turn is the Host's, whose queue is empty. -/
theorem idleBlockKeepsItsState : Obligations.IdleBlockKeepsItsState := by
  intro s hr hb hhost
  rw [step_of_hostTurn hr (engineTurn_of_not_busy hb), hostStep, hhost]

/-! ## Writes -/

/-- A write to CMD of an idle block is its acceptance (60_exceptions.md R235). -/
theorem writeReg_cmd_of_idle {s : State} (hb : s.busy = false) (v : Word) : s.writeReg v .cmd = s.accept v := by
  simp [State.writeReg, State.ifIdle, hb]

/-- No register but STATUS, by its BUSY, shows an acceptance: PEND and the latency are not in the window (10_state.md R52). -/
theorem readReg_accept (s : State) (v : Word) (r : Reg) : (s.accept v).readReg r = { s with busy := true }.readReg r :=
  readReg_of_visible rfl rfl rfl rfl rfl rfl rfl rfl rfl rfl rfl rfl rfl r

/-- Settles O15: the step is the acceptance. -/
theorem cmdWriteIsAccepted : Obligations.CmdWriteIsAccepted := by
  intro s v rest hr hb hhost
  have hstep : step s = .next ((s.takeInput rest).accept v) := by
    rw [step_of_serves_write ⟨hr, engineTurn_of_not_busy hb, hhost⟩ rfl, (ofOff_eq_cmd rfl).2 rfl,
      writeReg_cmd_of_idle (s := s.takeInput rest) hb]
  refine ⟨_, _, _, _, hstep, rfl, fun r => ?_⟩
  rw [readReg_accept]
  exact readReg_takeInput { s with busy := true } rest r

/-- A write to a guarded register of a busy block sets OVR and is dropped (20_memory.md R76, 60_exceptions.md R229). -/
theorem writeReg_guarded_of_busy {s : State} (hb : s.busy = true) (v : Word) {r : Reg} (hg : r.isGuarded = true) :
    s.writeReg v r = { s with ovr := true } := by
  obtain ⟨ovr, hw⟩ := writeReg_of_busy hb v r
  have hovr : (s.writeReg v r).ovr = true := by rw [writeReg_ovr_of_guarded s v hg, hb, Bool.or_true]
  rw [hw] at hovr ⊢
  cases hovr
  rfl

/-- Settles O16: a guarded offset is one of a guarded register. -/
theorem writeWhileBusyIsDropped : Obligations.WriteWhileBusyIsDropped := by
  intro s off v rest hserve hb hoff
  have hg : (Reg.ofOff off).isGuarded = true := (isGuarded_ofOff hoff.1).2 hoff
  rw [step_of_serves_write hserve hoff.1, writeReg_guarded_of_busy (s := s.takeInput rest) hb v hg]
  exact ⟨_, rfl⟩

/-! ## Completion -/

/-- No input served to a busy block changes the wait but hardware reset, which ends the command: only the taking of the input counts
(log entry 2). -/
theorem serve_wait_of_busy {op : HostOp} {s t : State} (hb : s.busy = true) (h : serve op s = .next t) :
    t.busy = false ∨ t.wait = s.wait := by
  cases op with
  | read width off =>
    rw [serve, serveRead] at h
    split at h
    · cases h
      exact .inr rfl
    · cases h
  | write width off v =>
    rw [serve, serveWrite] at h
    split at h
    · cases h
      obtain ⟨_, hw⟩ := writeReg_of_busy hb v (Reg.ofOff off)
      exact .inr (by rw [hw])
    · cases h
  | poll =>
    rw [serve, pollOnce_eq] at h
    cases h
    exact .inr rfl
  | skipIfErr n =>
    cases h
    unfold State.stopOnErr
    split <;> exact .inr rfl
  | assertReset =>
    cases h
    exact .inl rfl
  | releaseReset =>
    cases h
    exact .inr rfl

/-- A step of a busy block ends its command, by completion or by hardware reset, or brings the completion nearer (60_exceptions.md R237,
log entry 2). -/
theorem step_of_busy {s : State} (hr : s.resetIn = false) (hb : s.busy = true) :
    ∃ t, step s = .next t ∧ (t.busy = false ∨ t.busy = true ∧ t.resetIn = false ∧ t.wait + 1 = s.wait) := by
  cases he : s.engineTurn with
  | true =>
    obtain ⟨t, ht⟩ := engineStep_answers_next s
    have hstep : step s = .next t := (step_of_engineTurn he).trans ht
    exact ⟨t, hstep, .inl (step_busy_of_engineTurn he hstep)⟩
  | false =>
    obtain ⟨hwait, hready⟩ : s.wait ≠ 0 ∧ s.hostReady = true := by
      simpa [State.engineTurn, hr, hb] using he
    cases hhost : s.host with
    | nil => simp [State.hostReady, hhost] at hready
    | cons op rest =>
      obtain ⟨t, ht⟩ := serve_answers_next ((hostReady_eq_enabled hhost).symm.trans hready) (s.takeInput rest)
      have hstep : step s = .next t := (step_of_serves ⟨hr, he, hhost⟩).trans ht
      refine ⟨t, hstep, ?_⟩
      cases hbt : t.busy with
      | false => exact .inl rfl
      | true =>
        have hwt : t.wait = s.wait - 1 := (serve_wait_of_busy (s := s.takeInput rest) hb ht).resolve_left (by simp [hbt])
        obtain ⟨_, _, _, _, rfl⟩ := step_while_busy hstep hb hbt
        exact .inr ⟨rfl, hr, by omega⟩

/-- Settles O12, by induction on the wait: each step that does not end the command lowers it by one (`step_of_busy`). -/
theorem acceptedCommandCompletes : Obligations.AcceptedCommandCompletes := by
  intro s hr hb
  induction hw : s.wait generalizing s with
  | zero =>
    obtain ⟨t, hstep, hbt | ⟨-, -, hwt⟩⟩ := step_of_busy hr hb
    · exact ⟨1, t, Nat.le_refl 1, runFor_succ_of_step hstep 0, hbt⟩
    · omega
  | succ n ih =>
    obtain ⟨u, hstep, hbu | ⟨hbu, hru, hwu⟩⟩ := step_of_busy hr hb
    · exact ⟨1, u, Nat.le_add_left 1 _, runFor_succ_of_step hstep 0, hbu⟩
    · obtain ⟨k, t, hk, hrun, hbt⟩ := ih u hru hbu (by omega)
      exact ⟨k + 1, t, Nat.succ_le_succ hk, (runFor_succ_of_step hstep k).trans hrun, hbt⟩

end Sys2Proof.Machine
end

section
/-! SUPPORT. Hardware reset, and what no command touches (70_reset_and_hazards.md R250, R254, 60_exceptions.md R226, R229, R238). -/

namespace Sys2Proof.Machine

/-! ## Commands -/

/-- Settles O33: the frame of `exec_frame` names none of these fields. -/
theorem commandsLeaveStagingAlone : Obligations.CommandsLeaveStagingAlone := by
  intro i s t h
  rw [exec_frame h]
  exact ⟨rfl, rfl, rfl, rfl, rfl, rfl, rfl, rfl, rfl, rfl, rfl, rfl, rfl⟩

/-! ## Asserted and deasserted -/

/-- Only a step with hardware reset deasserted before it and after can leave more than the reset values
(70_reset_and_hazards.md R250). -/
theorem step_atReset_or_deasserted {s t : State} (h : step s = .next t) :
    t.AtReset ∨ (s.resetIn = false ∧ t.resetIn = false) := by
  obtain ⟨-, hat, -⟩ | ⟨he, u, rfl, ⟨i, -, hu⟩ | rfl⟩ | ⟨hr, hkeep⟩ := step_completes_or_sameButPort h
  · exact .inl hat
  · have hr := resetIn_of_engineTurn he
    obtain ⟨-, -, hur⟩ := exec_port_frame hu
    exact .inr ⟨hr, hur.trans hr⟩
  · have hr := resetIn_of_engineTurn he
    exact .inr ⟨hr, hr⟩
  · exact .inr ⟨hr, hkeep.resetIn.trans hr⟩

/-- Settles O59: a step with the input asserted at either end is not of the second kind of `step_atReset_or_deasserted`, and what
clears CTX is in `contextFromInitToHardwareReset`. -/
theorem hardwareResetHoldsTheResetState : Obligations.HardwareResetHoldsTheResetState := by
  refine ⟨fun s t h hr => ?_, fun s t h => (contextFromInitToHardwareReset s t h).2⟩
  have hat : t.AtReset := (step_atReset_or_deasserted h).resolve_right fun ⟨hs, ht⟩ => by simp [hs, ht] at hr
  exact ⟨hat, fun off => readReg_of_atReset hat (Reg.ofOff off)⟩

/-- Settles O7: the step served is the assertion, which keeps the rest of the queue. -/
theorem hardwareResetInputResetsTheBlock : Obligations.HardwareResetInputResetsTheBlock := by
  intro s rest hserve
  exact ⟨(s.takeInput rest).assertReset, step_of_serves hserve, ⟨_, _, _, _, _, _, rfl⟩, rfl, rfl⟩

/-! ## Accesses while asserted -/

section
variable {s : State} (hr : s.resetIn = true) {rest : List HostOp}
include hr

/-- An admitted read made under hardware reset replies the 0 of every register (10_state.md R62). -/
theorem step_read_of_resetIn {off : BitVec 8} (hh : s.host = .read .word off :: rest) (ha : off.toNat % 4 = 0) :
    step s = .next ((s.hardwareReset.takeInput rest).reply 0) := by
  rw [step_of_resetIn_cons hh hr, serveHeld, serveRead, if_pos ((admitted_eq_true _ _).2 ⟨rfl, ha⟩),
    readReg_of_atReset (atReset_takeInput (atReset_hardwareReset s) rest)]

/-- An admitted write made under hardware reset is taken and leaves nothing behind (70_reset_and_hazards.md R250). -/
theorem step_write_of_resetIn {off : BitVec 8} {v : Word} (hh : s.host = .write .word off v :: rest) (ha : off.toNat % 4 = 0) :
    step s = .next (s.hardwareReset.takeInput rest) := by
  rw [step_of_resetIn_cons hh hr, serveHeld, serveHeldWrite, if_pos ((admitted_eq_true _ _).2 ⟨rfl, ha⟩)]

/-- The release of hardware reset changes its level only, on a block at its reset values (70_reset_and_hazards.md R250). -/
theorem step_release_of_resetIn (hh : s.host = .releaseReset :: rest) :
    step s = .next (s.hardwareReset.takeInput rest).releaseReset := by
  rw [step_of_resetIn_cons hh hr, serveHeld]

/-- With no input the block waits at its reset values. -/
theorem step_idle_of_resetIn (hh : s.host = []) : step s = .next s.hardwareReset := by
  rw [step_of_resetIn hr, heldStep, hh]

end

/-- Settles O60: each access is the serving of it on the block at its reset values. -/
theorem accessesUnderResetFindTheResetState : Obligations.AccessesUnderResetFindTheResetState := by
  intro s hr
  refine ⟨fun off rest hh ha => ?_, fun off v rest hh ha => ?_, fun rest hh => ?_, fun hh => ?_⟩
  · exact ⟨_, step_read_of_resetIn hr hh ha, ⟨_, _, _, _, _, _, rfl⟩, hr, rfl, rfl⟩
  · exact ⟨_, step_write_of_resetIn hr hh ha, ⟨_, _, _, _, _, _, rfl⟩, hr, rfl, rfl⟩
  · exact ⟨_, step_release_of_resetIn hr hh, ⟨_, _, _, _, _, _, rfl⟩, rfl, rfl, rfl⟩
  · exact ⟨_, step_idle_of_resetIn hr hh, atReset_hardwareReset s, hr, hh, rfl⟩

end Sys2Proof.Machine
end
